-- ==== Sys2Proof/Word.lean ====
section
/-! DEFINITION. The machine words: a byte and a 64-bit register word (R9, R10). -/

namespace Sys2Proof

/-- A byte of a memory, of a header or of an encoded pixel. -/
abbrev Byte := BitVec 8

/-- A 64-bit register value, a command word, or the bit pattern of one binary64 lane (R9, R30). -/
abbrev Word := BitVec 64

end Sys2Proof
end

