-- ==== Sys2Proof/Machine/Bytes.lean ====
section
/-! DEFINITION. Byte order: the block is little-endian throughout (R51, R52). -/

namespace Sys2Proof.Machine

/-- The `n` low bytes of `v`, least significant byte first (R52). -/
def bytesLE : Nat → Nat → List Byte
  | 0, _ => []
  | n + 1, v => BitVec.ofNat 8 v :: bytesLE n (v / 256)

/-- `Σ b_j × 2^(8j)` (R52). -/
def ofBytesLE : List Byte → Nat
  | [] => 0
  | b :: bs => b.toNat + 256 * ofBytesLE bs

/-- The field of `len` bits of `w` from bit `lo` up (R10). -/
def field (w : Word) (lo len : Nat) : BitVec len := w.extractLsb' lo len

end Sys2Proof.Machine
end

