-- ==== Sys2Proof/Syntax.lean ====
section
/-! DEFINITION. The six commands of the block, one constructor per row of the opcode table (R65). -/

namespace Sys2Proof

/-- A command. No command carries an operand in its word: every operand comes from a register (R64, R70). -/
inductive Instr where
  /-- OP 0x00, R140. -/
  | nop
  /-- OP 0x01, R141. -/
  | convert
  /-- OP 0x02, R137. -/
  | encodeHeader
  /-- OP 0x03, R131. -/
  | packRow
  /-- OP 0x04, R98. -/
  | transform
  /-- OP 0x05, R121. -/
  | encodePixel
  deriving DecidableEq, Repr

end Sys2Proof
end

