-- ==== Sys2Proof/Config.lean ====
section
/-! DEFINITION. What an implementation fixes, R8's parameters as plain data, and the free values.
The values of the defaults stand in Machine/Defaults.lean. -/

namespace Sys2Proof

/-- `P_SAMPLE_FMT`: the storage format of one lane of an IN sample (R8, R47). -/
inductive SampleFmt where
  | binary64
  | binary32
  deriving DecidableEq, Repr

/-- `P_POW64`, named instead of carried as a function (R8, R82): the default is the correctly rounded power;
`other k` is any other total function that meets R82's assumptions. Log entry 6. -/
inductive PowUnit where
  | correctlyRounded
  | other (k : Nat)
  deriving DecidableEq, Repr

/-- `P_TF`: the transfer-function constants, binary64 patterns (R81). -/
structure TransferConsts where
  /-- decode threshold K0 -/
  k0 : Word
  /-- linear-segment slope PHI -/
  phi : Word
  /-- offset A -/
  a : Word
  /-- one plus offset A1 -/
  a1 : Word
  /-- decode exponent G -/
  g : Word
  /-- encode threshold L0 -/
  l0 : Word
  /-- encode exponent GI -/
  gi : Word
  deriving DecidableEq, Repr

/-- A row of a matrix: three binary64 patterns. -/
structure MatrixRow where
  c0 : Word
  c1 : Word
  c2 : Word
  deriving DecidableEq, Repr

/-- A 3×3 matrix, row-major (R85). -/
structure Matrix where
  row0 : MatrixRow
  row1 : MatrixRow
  row2 : MatrixRow
  deriving DecidableEq, Repr

/-- One instance of the block: the parameters of R8, fixed for the life of the model instance (R15). Log entry 3. -/
structure Instance where
  sampleFmt : SampleFmt
  inCapacity : Nat
  outCapacity : Nat
  pow : PowUnit
  tf : TransferConsts
  matFwd : Matrix
  matInv : Matrix
  hasClampCounter : Bool
  deriving DecidableEq, Repr

/-- The `n`-th free value of a run: what a host read returns where R175 allows any value, and what a host read of an
unwritten IN lane returns. Nothing can be proved of its value. Log entries 7 and 11. -/
opaque Config.freeRead : Nat → Word

/-- A power function of which nothing is known; Machine/Pow.lean keeps R82's assumptions around it. Log entry 6. -/
opaque Config.otherPow : Nat → Word → Word → Word

end Sys2Proof
end

