-- ==== Sys2Proof/WellFormed.lean ====
section
/-! DEFINITION. What is well-formed: a command, a command word (R64 to R66), an instance of the block (R8, R172). -/

namespace Sys2Proof

/-- A command word is one of the six when OP is at most 0x05 and RSV is 0 (R64, R66). -/
def commandWordWellFormed (w : Word) : Bool :=
  decide ((w.extractLsb' 8 56) = 0#56) && decide ((w.extractLsb' 0 8).toNat ≤ 0x05)

/-- A command has no operand to check (R64): every one of the six is well-formed. -/
def Instr.wellFormed : Instr → Bool
  | .nop | .convert | .encodeHeader | .packRow | .transform | .encodePixel => true

/-- The legal values of the parameters (R8, R172); every binary64 pattern is legal in P_TF and in the matrices. -/
def Instance.wellFormed (p : Instance) : Bool :=
  decide (1 ≤ p.inCapacity) && decide (16 ≤ p.outCapacity) && decide (p.outCapacity ≤ 2 ^ 64 - 1)

end Sys2Proof
end

