-- ==== Sys2Proof/Decode.lean ====
section
/-! DEFINITION. Decoding of a command word (R63 to R66), and the encoder. -/

namespace Sys2Proof

/-- Why a word is no command: each of these completes with ILLEGAL_CMD (R66). -/
inductive DecodeError where
  /-- fewer than the eight bytes of a command word -/
  | shortWord
  /-- RSV ≠ 0 -/
  | reservedBits
  /-- OP in 0x06 to 0xFF -/
  | unassignedOpcode
  deriving DecidableEq, Repr

/-- OP, bits 7:0 (R64). -/
def opField (w : Word) : BitVec 8 := Machine.field w 0 8

/-- RSV, bits 63:8 (R64). -/
def rsvField (w : Word) : BitVec 56 := Machine.field w 8 56

/-- The opcode map (R65). -/
def instrOfOpcode (op : BitVec 8) : Option Instr :=
  match op.toNat with
  | 0x00 => some .nop
  | 0x01 => some .convert
  | 0x02 => some .encodeHeader
  | 0x03 => some .packRow
  | 0x04 => some .transform
  | 0x05 => some .encodePixel
  | _ => none

/-- The command a word written to CMD stands for (R64 to R66). -/
def decodeWord (w : Word) : Except DecodeError Instr :=
  if rsvField w ≠ 0 then .error .reservedBits
  else
    match instrOfOpcode (opField w) with
    | some i => .ok i
    | none => .error .unassignedOpcode

/-- Decoding on bytes: the command word is the first eight, little-endian (R49, R51), and the rest is handed back. -/
def decodeBytes (bs : List Byte) : Except DecodeError (Instr × List Byte) :=
  if bs.length < 8 then .error .shortWord
  else
    match decodeWord (BitVec.ofNat 64 (Machine.ofBytesLE (bs.take 8))) with
    | .ok i => .ok (i, bs.drop 8)
    | .error e => .error e

/-- The opcode of a command (R65). -/
def opcodeOf : Instr → BitVec 8
  | .nop => 0x00
  | .convert => 0x01
  | .encodeHeader => 0x02
  | .packRow => 0x03
  | .transform => 0x04
  | .encodePixel => 0x05

/-- The command word of a command: OP in bits 7:0, RSV = 0 (R64). -/
def encode (i : Instr) : Word := (opcodeOf i).setWidth 64

/-- The command word as it stands on a byte-addressed bus (R49). -/
def encodeBytes (i : Instr) : List Byte := Machine.bytesLE 8 (encode i).toNat

/-- The 64-bit word of an opcode-table word `w` of `nbits` bits; the bits above `nbits` are 0. -/
def tableWord (nbits w : Nat) : Word := BitVec.ofNat 64 (w % 2 ^ nbits)

/-- The command the decoder reads from the opcode table's word, laid out as eight bytes on the bus. -/
def decodeTableWord (nbits w : Nat) : Option Instr :=
  match decodeBytes (Machine.bytesLE 8 (tableWord nbits w).toNat) with
  | .ok (i, _) => some i
  | .error _ => none

end Sys2Proof
end

