-- ==== Sys2Proof/Machine/Defaults.lean ====
section
/-! DEFINITION. The default value of each parameter of R8. -/

namespace Sys2Proof.Machine

/-- R81's defaults: the IEC 61966-2-1 sRGB curve. Log entry 5. -/
def defaultTransfer : TransferConsts where
  k0 := 0x3FA4B5DCC63F1412
  phi := 0x4029D70A3D70A3D7
  a := 0x3FAC28F5C28F5C29
  a1 := 0x3FF0E147AE147AE1
  g := 0x4003333333333333
  l0 := 0x3F69A5C37387B719
  gi := 0x3FDAAAAAAAAAAAAB

/-- R85's `P_MAT_FWD`: linear sRGB to XYZ. Log entry 5. -/
def defaultMatFwd : Matrix where
  row0 := ⟨0x3FDA64C2F837B4A2, 0x3FD6E2EB1C432CA5, 0x3FC71A9FBE76C8B4⟩
  row1 := ⟨0x3FCB367A0F9096BC, 0x3FE6E2EB1C432CA5, 0x3FB27BB2FEC56D5D⟩
  row2 := ⟨0x3F93C36113404EA5, 0x3FBE83E425AEE632, 0x3FEE6A7EF9DB22D1⟩

/-- R85's `P_MAT_INV`: XYZ to linear sRGB. Log entry 5. -/
def defaultMatInv : Matrix where
  row0 := ⟨0x4009ECBFB15B573F, 0xBFF8985F06F69446, 0xBFDFE90FF9724745⟩
  row1 := ⟨0xBFEF013A92A30553, 0x3FFE0346DC5D6388, 0x3FA53F7CED916873⟩
  row2 := ⟨0x3FAC84B5DCC63F14, 0xBFCA1CAC083126E9, 0x3FF0E978D4FDF3B6⟩

/-- R8's defaults. The two capacities are OPEN in the spec: DESIGN CHOICE, log entry 4. -/
def defaultInst : Instance where
  sampleFmt := .binary64
  inCapacity := 65536
  outCapacity := 1048576
  pow := .correctlyRounded
  tf := defaultTransfer
  matFwd := defaultMatFwd
  matInv := defaultMatInv
  hasClampCounter := true

end Sys2Proof.Machine
end

