-- ==== Sys2Proof/Machine/Formats.lean ====
section
/-! DEFINITION. Data formats, colour spaces, the ten legal colour-space pairs, and the geometry of a row and of an image
(R67 to R69, R88 to R97, R124 to R126, R142). -/

namespace Sys2Proof.Machine

/-- A sample: four lanes R, G, B, A, each a binary64 pattern (R14, R78). -/
structure Sample where
  r : Word
  g : Word
  b : Word
  a : Word
  deriving DecidableEq, Repr

/-- Lane `k`: 0 = R, 1 = G, 2 = B, 3 = A (R14). -/
def Sample.lane (s : Sample) (k : Fin 4) : Word :=
  match k with
  | 0 => s.r
  | 1 => s.g
  | 2 => s.b
  | 3 => s.a

/-- The sample with lane `k` replaced. -/
def Sample.setLane (s : Sample) (k : Fin 4) (v : Word) : Sample :=
  match k with
  | 0 => { s with r := v }
  | 1 => { s with g := v }
  | 2 => { s with b := v }
  | 3 => { s with a := v }

/-- The ten data formats (R67). -/
inductive DataFormat where
  | r32f
  | rg32f
  | rgba32f
  | r16f
  | packedR16f
  | rg16f
  | rgba16f
  | r8
  | packedR8
  | rgbe8
  deriving DecidableEq, Repr

/-- The numeric kind of a format (R68). -/
inductive NumericKind where
  | float32
  | float16
  | fixed8
  | rgbe
  deriving DecidableEq, Repr

/-- The format of an id; 10 to 15 are unsupported (R67). -/
def DataFormat.ofId (id : BitVec 4) : Option DataFormat :=
  match id.toNat with
  | 0 => some .r32f
  | 1 => some .rg32f
  | 2 => some .rgba32f
  | 3 => some .r16f
  | 4 => some .packedR16f
  | 5 => some .rg16f
  | 6 => some .rgba16f
  | 7 => some .r8
  | 8 => some .packedR8
  | 9 => some .rgbe8
  | _ => none

/-- The id of a format, also written in the header (R67, R134). -/
def DataFormat.id : DataFormat → Nat
  | .r32f => 0
  | .rg32f => 1
  | .rgba32f => 2
  | .r16f => 3
  | .packedR16f => 4
  | .rg16f => 5
  | .rgba16f => 6
  | .r8 => 7
  | .packedR8 => 8
  | .rgbe8 => 9

/-- The numeric kind (R68). -/
def DataFormat.kind : DataFormat → NumericKind
  | .r32f | .rg32f | .rgba32f => .float32
  | .r16f | .packedR16f | .rg16f | .rgba16f => .float16
  | .r8 | .packedR8 => .fixed8
  | .rgbe8 => .rgbe

/-- `cc`, the channel count (R68); for RGBE8 it counts output bytes. -/
def DataFormat.channels : DataFormat → Nat
  | .r32f | .r16f | .packedR16f | .r8 | .packedR8 => 1
  | .rg32f | .rg16f => 2
  | .rgba32f | .rgba16f | .rgbe8 => 4

/-- `bw`, the byte width of a channel (R68). -/
def DataFormat.byteWidth (f : DataFormat) : Nat :=
  match f.kind with
  | .float32 => 4
  | .float16 => 2
  | .fixed8 | .rgbe => 1

/-- The packed flag (R68). -/
def DataFormat.packed : DataFormat → Bool
  | .packedR16f | .packedR8 => true
  | .r32f | .rg32f | .rgba32f | .r16f | .rg16f | .rgba16f | .r8 | .rgbe8 => false

/-- `BPP = cc × bw`, the bytes of one pixel (R68). -/
def DataFormat.bpp (f : DataFormat) : Nat := f.channels * f.byteWidth

/-- Row bytes before padding (R124). -/
def DataFormat.rowBytes (f : DataFormat) (width : Nat) : Nat := width * f.bpp

/-- Padding bytes at the end of a row (R125). -/
def DataFormat.pad (f : DataFormat) (width : Nat) : Nat :=
  if f.packed then 0 else (4 - f.rowBytes width % 4) % 4

/-- The distance between the starts of consecutive rows (R126). -/
def DataFormat.stride (f : DataFormat) (width : Nat) : Nat := f.rowBytes width + f.pad width

/-- `H`: 16 bytes of header when it is enabled, else none (R56). -/
def headerLength (hdr : Bool) : Nat := if hdr then 16 else 0

/-- `size(f, h, W, Hgt)` in unbounded integers (R142). -/
def DataFormat.imageSize (f : DataFormat) (hdr : Bool) (width height : Nat) : Nat :=
  headerLength hdr + height * f.stride width

/-- The four colour spaces (R69). -/
inductive ColorSpace where
  | nonColor
  | ciexyz
  | srgb
  | linearSrgb
  deriving DecidableEq, Repr

/-- The colour space of an id; 4 to 15 are unsupported (R69). -/
def ColorSpace.ofId (id : BitVec 4) : Option ColorSpace :=
  match id.toNat with
  | 0 => some .nonColor
  | 1 => some .ciexyz
  | 2 => some .srgb
  | 3 => some .linearSrgb
  | _ => none

/-- The id of a colour space, also written in the header (R69, R134). -/
def ColorSpace.id : ColorSpace → Nat
  | .nonColor => 0
  | .ciexyz => 1
  | .srgb => 2
  | .linearSrgb => 3

/-- The ten pairs of source and target to which the colour transform is ever applied (R79, R88 to R97). -/
inductive ColorPair where
  /-- R88 -/
  | nonColor
  /-- R89 -/
  | xyzToXyz
  /-- R90 -/
  | srgbToSrgb
  /-- R91 -/
  | linearToLinear
  /-- R92 -/
  | srgbToLinear
  /-- R93 -/
  | linearToSrgb
  /-- R94 -/
  | linearToXyz
  /-- R95 -/
  | xyzToLinear
  /-- R96 -/
  | srgbToXyz
  /-- R97 -/
  | xyzToSrgb
  deriving DecidableEq, Repr

/-- The pair of a source and a target; the six that mix NonColor with a colour space are none (R79). -/
def ColorPair.of : ColorSpace → ColorSpace → Option ColorPair
  | .nonColor, .nonColor => some .nonColor
  | .ciexyz, .ciexyz => some .xyzToXyz
  | .srgb, .srgb => some .srgbToSrgb
  | .linearSrgb, .linearSrgb => some .linearToLinear
  | .srgb, .linearSrgb => some .srgbToLinear
  | .linearSrgb, .srgb => some .linearToSrgb
  | .linearSrgb, .ciexyz => some .linearToXyz
  | .ciexyz, .linearSrgb => some .xyzToLinear
  | .srgb, .ciexyz => some .srgbToXyz
  | .ciexyz, .srgb => some .xyzToSrgb
  | .nonColor, .ciexyz | .nonColor, .srgb | .nonColor, .linearSrgb => none
  | .ciexyz, .nonColor | .srgb, .nonColor | .linearSrgb, .nonColor => none

/-- The target space of a pair. -/
def ColorPair.target : ColorPair → ColorSpace
  | .nonColor => .nonColor
  | .xyzToXyz | .linearToXyz | .srgbToXyz => .ciexyz
  | .srgbToSrgb | .linearToSrgb | .xyzToSrgb => .srgb
  | .linearToLinear | .srgbToLinear | .xyzToLinear => .linearSrgb

end Sys2Proof.Machine
end

