-- ==== Sys2Proof/Machine/State.lean ====
section
/-! DEFINITION. The state of the machine (R15 to R44, R160, R169), its errors, faults and refusals, and reset. -/

namespace Sys2Proof.Machine

/-- The model faults of R160. They stand for host misuse, where the device's outcome is unknown. A step that meets one
sets the model-fault mark, and every later step but the platform's reset answers `fault` with it. All are safe: nothing
is claimed of what the device does there. -/
inductive Fault where
  /-- The engine reads an IN sample with an unwritten lane (R130): raised by CONVERT and PACK_ROW. Safe. -/
  | unwrittenIn
  /-- The host reads an OUT byte that nothing has written: raised by a host read of OUT. Safe. -/
  | unwrittenOut
  /-- The host writes IN while BUSY = 1 (R173): raised by a host write of IN. Safe. -/
  | hazardIn
  /-- The host writes OUT while BUSY = 1 (R174): raised by a host write of OUT. Safe. -/
  | hazardOut
  deriving DecidableEq, Repr

/-- Why a step has no meaning. -/
inductive Refusal where
  /-- A command the model gives no meaning yet: raised by no arm of exec today. Safe. -/
  | notModelled (mnemonic : String)
  /-- A host access of wrong width, misaligned, or past the end of its space (R50): the host program is ill-formed.
  Raised by a host step. Safe. -/
  | illFormedAccess
  deriving DecidableEq, Repr

/-- The error codes of STATUS.ERRCODE (R152). -/
inductive ErrorCode where
  | illegalCmd
  | badFormat
  | badColorspace
  | csMismatch
  | zeroDim
  | inCapacity
  | outCapacity
  | rowRange
  deriving DecidableEq, Repr

/-- What ends a command's rule before its effects: `raise Error(code)` (R11), or a model fault (R130). -/
inductive Stop where
  | raise (c : ErrorCode)
  | fault (f : Fault)
  deriving DecidableEq, Repr

/-- STATUS (R19); its reserved bits read 0 and hold nothing (R35). -/
structure Status where
  busy : Bool
  done : Bool
  err : Bool
  ovr : Bool
  errcode : BitVec 4
  qlen : BitVec 5
  deriving DecidableEq, Repr

/-- CFG (R21), each field stored as written (R22); its reserved bits read 0 and hold nothing (R35). -/
structure Cfg where
  format : BitVec 4
  srcCs : BitVec 4
  dstCs : BitVec 4
  hdrEn : Bool
  irqEn : Bool
  deriving DecidableEq, Repr

/-- `cur_op` (R37, R154), decoded at issue. Log entry 14. -/
inductive CurOp where
  | command (i : Instr)
  | illegal
  deriving DecidableEq, Repr

/-- A memory: the written bytes by address, addresses strictly rising. An address not listed is unwritten and has no
value (R43). -/
abbrev Memory := List Host.Cell

/-- The host's three address spaces (R45). -/
inductive Space where
  | regs
  | input
  | output
  deriving DecidableEq, Repr

/-- One operation from outside the block: a bus transaction of the host (R77), the WAIT pseudo-operation (R76), or the
platform's reset (R168). -/
inductive HostOp where
  | write (space : Space) (addr width : Nat) (value : Word)
  | read (space : Space) (addr width : Nat)
  | wait
  | reset
  deriving DecidableEq, Repr

/-- Who takes a step (R15). -/
inductive Agent where
  | host
  | engine
  deriving DecidableEq, Repr

/-- What lies outside the block: the operations still to come, oldest first; who moves next while BUSY = 1; what the
host's reads have returned, newest first; and how many free values have been drawn. Log entries 1, 7, 18. -/
structure Outside where
  ops : List HostOp
  turns : List Agent
  reads : List Word
  draws : Nat
  deriving DecidableEq, Repr

structure State where
  /-- The parameters of R8; no step changes them. Log entry 3. -/
  inst : Instance
  /-- STATUS, R19. -/
  status : Status
  /-- CFG, R21. -/
  cfg : Cfg
  /-- WIDTH, R25. -/
  width : BitVec 32
  /-- HEIGHT, R26. -/
  height : BitVec 32
  /-- ROW, R27. -/
  row : BitVec 32
  /-- SIN0 to SIN3, R30. -/
  sin : Sample
  /-- SOUT0 to SOUT3, R31. -/
  sout : Sample
  /-- QOUT0, R32. -/
  qout0 : Word
  /-- QOUT1, R32. -/
  qout1 : Word
  /-- CLAMP_COUNT, R33. -/
  clampCount : Word
  /-- cur_op, R37. -/
  curOp : CurOp
  /-- IN, R41, R46. -/
  inMem : Memory
  /-- OUT, R42. -/
  outMem : Memory
  /-- The model-fault mark, R160. -/
  faultMark : Option Fault
  /-- What lies outside the block. -/
  outside : Outside
  deriving DecidableEq, Repr

/-- Nothing outside the block: no operation to come, none done. -/
def Outside.empty : Outside := ⟨[], [], [], 0⟩

/-- Four lanes of +0.0. -/
def Sample.zero : Sample := ⟨0, 0, 0, 0⟩

/-- The state after reset of the instance `p`, with `o` outside it (R169); `cur_op` is meaningless there (log entry 13). -/
def State.resetOf (p : Instance) (o : Outside) : State where
  inst := p
  status := ⟨false, false, false, false, 0, 0⟩
  cfg := ⟨0, 0, 0, false, false⟩
  width := 0
  height := 0
  row := 0
  sin := Sample.zero
  sout := Sample.zero
  qout0 := 0
  qout1 := 0
  clampCount := 0
  curOp := .command .nop
  inMem := []
  outMem := []
  faultMark := none
  outside := o

/-- The machine right after reset (R169), as an instance with the default parameters (log entries 4, 5). -/
def State.reset : State := State.resetOf defaultInst Outside.empty

end Sys2Proof.Machine
end

