-- ==== Sys2Proof/Machine/Flags.lean ====
section
/-! DEFINITION. STATUS as a word and its rules (R19, R154, R155), the error codes (R152), CLAMP_COUNT (R33), IRQ (R39). -/

namespace Sys2Proof.Machine

/-- The number of an error code (R152); 0 means no error. -/
def ErrorCode.number : ErrorCode → BitVec 4
  | .illegalCmd => 1
  | .badFormat => 2
  | .badColorspace => 3
  | .csMismatch => 4
  | .zeroDim => 5
  | .inCapacity => 6
  | .outCapacity => 7
  | .rowRange => 8

/-- One bit at position `k` of a word. -/
def bitAt (b : Bool) (k : Nat) : Word := BitVec.ofNat 64 (b.toNat * 2 ^ k)

/-- STATUS as it reads (R19). -/
def Status.word (t : Status) : Word :=
  bitAt t.busy 0 ||| bitAt t.done 1 ||| bitAt t.err 2 ||| bitAt t.ovr 3
    ||| BitVec.ofNat 64 (t.errcode.toNat * 2 ^ 8) ||| BitVec.ofNat 64 (t.qlen.toNat * 2 ^ 16)

/-- A host write of STATUS: a 1 in bit 1, 2 or 3 clears DONE, ERR with ERRCODE, or OVR (R19). -/
def Status.clearWrittenOnes (t : Status) (v : Word) : Status :=
  { t with
    done := t.done && !v.getLsbD 1
    err := t.err && !v.getLsbD 2
    errcode := if v.getLsbD 2 then 0 else t.errcode
    ovr := t.ovr && !v.getLsbD 3 }

/-- STATUS at issue: DONE, ERR and ERRCODE cleared, BUSY set; OVR and QLEN kept (R154). -/
def Status.issued (t : Status) : Status := { t with busy := true, done := false, err := false, errcode := 0 }

/-- STATUS at completion: BUSY cleared, DONE set (R155). -/
def Status.finished (t : Status) : Status := { t with busy := false, done := true }

/-- STATUS at completion with an error: ERR and ERRCODE set as well (R155). -/
def Status.failed (t : Status) (c : ErrorCode) : Status := { t.finished with err := true, errcode := c.number }

/-- STATUS after a dropped command word (R38). -/
def Status.overrun (t : Status) : Status := { t with ovr := true }

/-- The saturating count of clamp events (R33). -/
def saturatingCount (c : Word) (events : Nat) : Word := BitVec.ofNat 64 (min (c.toNat + events) (2 ^ 64 - 1))

/-- Add clamp events to CLAMP_COUNT where the counter exists (R33). -/
def State.countClamps (s : State) (events : Nat) : State :=
  { s with clampCount := if s.inst.hasClampCounter then saturatingCount s.clampCount events else s.clampCount }

/-- The IRQ output, a level (R39, R158). -/
def State.irq (s : State) : Bool := s.status.done && s.cfg.irqEn

end Sys2Proof.Machine
end

