-- ==== Sys2Proof/Machine/Float.lean ====
section
/-! DEFINITION. Floating point on bit patterns (R12, R72): exact arithmetic on integers, one rounding to nearest with
ties to even, subnormals honoured. A magnitude pattern (the sign bit left out) of a finite value is read in units of
the format's smallest subnormal, so that a value is a natural number of units. -/

namespace Sys2Proof.Machine

/-- The integer nearest to `n / d`, a tie going to the even one. -/
def roundHalfEven (n d : Nat) : Nat :=
  let q := n / d
  let r := n % d
  if 2 * r < d then q else if d < 2 * r then q + 1 else q + q % 2

/-- The magnitude pattern nearest to `n / d` units in a format of `frac` fraction bits (no upper end of the exponent):
with `e` binades above the subnormals' spacing the pattern is `e × 2^frac` plus the rounded significand, whose carry
into the next binade is then the pattern's own carry. -/
def roundMag (frac n d : Nat) : Nat :=
  let e := Nat.log2 (n / d) - frac
  e * 2 ^ frac + roundHalfEven n (d * 2 ^ e)

/-- The units of a finite magnitude pattern of a format of `frac` fraction bits (R72). -/
def unitsOf (frac mag : Nat) : Nat :=
  if mag / 2 ^ frac = 0 then mag else (2 ^ frac + mag % 2 ^ frac) * 2 ^ (mag / 2 ^ frac - 1)

/-- The binary64 units are 2^-1074. -/
def unitExp : Nat := 1074

namespace F64

/-- Bit 63. -/
def sign (v : Word) : Bool := v.getLsbD 63

/-- Bits 62:0. -/
def mag (v : Word) : Nat := v.toNat % 2 ^ 63

/-- The magnitude pattern of an infinity (R72). -/
def infMag : Nat := 0x7FF0000000000000

/-- All-ones exponent with a non-zero fraction (R72). -/
def isNaN (v : Word) : Bool := decide (infMag < mag v)

/-- All-ones exponent with a zero fraction (R72). -/
def isInf (v : Word) : Bool := decide (mag v = infMag)

/-- Neither an infinity nor a NaN. -/
def isFinite (v : Word) : Bool := decide (mag v < infMag)

/-- +0.0 or −0.0. -/
def isZero (v : Word) : Bool := decide (mag v = 0)

/-- A pattern from its sign and magnitude. -/
def ofSignMag (s : Bool) (m : Nat) : Word := BitVec.ofNat 64 ((if s then 2 ^ 63 else 0) + m)

/-- The canonical quiet NaN of R87. -/
def canonNaN : Word := 0x7FF8000000000000

/-- +∞ (R72). -/
def posInf : Word := 0x7FF0000000000000

/-- +0.0 -/
def posZero : Word := 0x0000000000000000

/-- 1.0 -/
def one : Word := 0x3FF0000000000000

/-- The magnitude of a finite value, in units of 2^-1074. -/
def units (v : Word) : Nat := unitsOf 52 (mag v)

/-- A finite value, in units of 2^-1074. -/
def signedUnits (v : Word) : Int := if sign v then -(units v : Int) else (units v : Int)

/-- A value's place in the order of the non-NaN values; both zeros have the same. -/
def key (v : Word) : Int := if sign v then -(mag v : Int) else (mag v : Int)

/-- IEEE 754 `<`: false when either side is a NaN (R12). -/
def lt (a b : Word) : Bool := !isNaN a && !isNaN b && decide (key a < key b)

/-- IEEE 754 `≤`: false when either side is a NaN (R12). -/
def le (a b : Word) : Bool := !isNaN a && !isNaN b && decide (key a ≤ key b)

/-- IEEE 754 equality of values: the two zeros are equal, a NaN equals nothing. -/
def eq (a b : Word) : Bool := !isNaN a && !isNaN b && decide (key a = key b)

/-- The larger of two non-NaN values (R12). -/
def max (a b : Word) : Word := if lt a b then b else a

/-- The binary64 value nearest to `n / d` units with sign `s`; too large a value is an infinity. -/
def round (s : Bool) (n d : Nat) : Word := ofSignMag s (min (roundMag 52 n d) infMag)

/-- The value with the sign bit inverted. -/
def neg (v : Word) : Word := v ^^^ 0x8000000000000000

/-- `add64` (R12). The payload of a NaN result is not observable (log entry 20). -/
def add (a b : Word) : Word :=
  if isNaN a || isNaN b then canonNaN
  else if isInf a then (if isInf b && (sign a != sign b) then canonNaN else a)
  else if isInf b then b
  else
    let t := signedUnits a + signedUnits b
    if t = 0 then ofSignMag (sign a && sign b) 0 else round (decide (t < 0)) t.natAbs 1

/-- `sub64` (R12). -/
def sub (a b : Word) : Word := add a (neg b)

/-- `mul64` (R12). -/
def mul (a b : Word) : Word :=
  let s := sign a != sign b
  if isNaN a || isNaN b then canonNaN
  else if isInf a || isInf b then (if isZero a || isZero b then canonNaN else ofSignMag s infMag)
  else round s (units a * units b) (2 ^ unitExp)

/-- `div64` (R12). -/
def div (a b : Word) : Word :=
  let s := sign a != sign b
  if isNaN a || isNaN b then canonNaN
  else if isInf a then (if isInf b then canonNaN else ofSignMag s infMag)
  else if isInf b then ofSignMag s 0
  else if isZero b then (if isZero a then canonNaN else ofSignMag s infMag)
  else round s (units a * 2 ^ unitExp) (units b)

end F64

/-- The binary32 units are 2^-149. -/
def unitExp32 : Nat := 149

/-- The binary16 units are 2^-24. -/
def unitExp16 : Nat := 24

/-- `rnd32`: the binary32 pattern nearest to a finite binary64 value, ties to even, subnormals and the sign of zero
kept (R12, R104). -/
def rnd32 (v : Word) : BitVec 32 :=
  BitVec.ofNat 32 ((if F64.sign v then 2 ^ 31 else 0) + roundMag 23 (F64.units v) (2 ^ (unitExp - unitExp32)))

/-- `rnd16`: the binary16 pattern nearest to a finite binary64 value, one rounding (R12, R105). -/
def rnd16 (v : Word) : BitVec 16 :=
  BitVec.ofNat 16 ((if F64.sign v then 2 ^ 15 else 0) + roundMag 10 (F64.units v) (2 ^ (unitExp - unitExp16)))

/-- The exact binary64 value of a binary32 pattern (R47). A NaN becomes a NaN; its payload is never observable
(log entry 20). -/
def widen32 (b : BitVec 32) : Word :=
  let s := b.getLsbD 31
  let m := b.toNat % 2 ^ 31
  if m = 0x7F800000 then F64.ofSignMag s F64.infMag
  else if 0x7F800000 < m then F64.canonNaN
  else F64.round s (unitsOf 23 m * 2 ^ (unitExp - unitExp32)) 1

end Sys2Proof.Machine
end

