-- ==== Sys2Proof/Machine/Ops.lean ====
section
/-! DEFINITION. The named operations over the memories, and the life of a command: its issue, its completion and the
error report (R11, R53, R139, R154 to R157). -/

namespace Sys2Proof.Machine

/-- The byte at an address, where one is written (R43). -/
def Memory.read : Memory → Nat → Option Byte
  | [], _ => none
  | (b, v) :: t, a => if b = a then some v else Memory.read t a

/-- Write one byte, keeping the addresses strictly rising. -/
def Memory.write : Memory → Nat → Byte → Memory
  | [], a, v => [(a, v)]
  | (b, w) :: t, a, v =>
    if a < b then (a, v) :: (b, w) :: t
    else if a = b then (a, v) :: t
    else (b, w) :: Memory.write t a v

/-- The canonical form: addresses strictly rising. -/
def Memory.wf : Memory → Bool
  | [] => true
  | [_] => true
  | (a, _) :: (b, w) :: t => decide (a < b) && Memory.wf ((b, w) :: t)

/-- Every listed address is below `n`. -/
def Memory.below (m : Memory) (n : Nat) : Bool := m.all fun c => decide (c.1 < n)

/-- `MemRead` of `n` bytes from `a` up, where all are written (R11). -/
def Memory.readBytes (m : Memory) : Nat → Nat → Option (List Byte)
  | _, 0 => some []
  | a, n + 1 =>
    match m.read a, m.readBytes (a + 1) n with
    | some b, some bs => some (b :: bs)
    | _, _ => none

/-- `MemWrite` of a byte sequence from `a` up (R11). -/
def Memory.writeBytes : Memory → Nat → List Byte → Memory
  | m, _, [] => m
  | m, a, b :: bs => Memory.writeBytes (m.write a b) (a + 1) bs

/-- `LW`, the bytes of one lane of IN (R45). -/
def laneBytes : SampleFmt → Nat
  | .binary64 => 8
  | .binary32 => 4

/-- The bytes of IN (R45). -/
def inBytes (p : Instance) : Nat := p.inCapacity * 4 * laneBytes p.sampleFmt

/-- A stored lane pattern widened to binary64 (R47). -/
def widen (fmt : SampleFmt) (v : Nat) : Word :=
  match fmt with
  | .binary64 => BitVec.ofNat 64 v
  | .binary32 => widen32 (BitVec.ofNat 32 v)

/-- The address of lane `k` of sample `i` in IN (R46). -/
def laneAddr (fmt : SampleFmt) (i : Nat) (k : Fin 4) : Nat := (i * 4 + k.val) * laneBytes fmt

/-- Lane `k` of sample `i`, widened, where it is written (R46, R47). -/
def State.readLane (s : State) (i : Nat) (k : Fin 4) : Option Word :=
  (s.inMem.readBytes (laneAddr s.inst.sampleFmt i k) (laneBytes s.inst.sampleFmt)).map
    fun bs => widen s.inst.sampleFmt (ofBytesLE bs)

/-- `widen(MemRead(IN, i))`, where all four lanes are written (R46, R47). -/
def State.readSample (s : State) (i : Nat) : Option Sample :=
  match s.readLane i 0, s.readLane i 1, s.readLane i 2, s.readLane i 3 with
  | some r, some g, some b, some a => some ⟨r, g, b, a⟩
  | _, _, _, _ => none

/-- The byte of OUT at an address, where one is written (R42). -/
def State.readOut (s : State) (a : Nat) : Option Byte := s.outMem.read a

/-- `MemWrite(OUT, a, n, bytes)` (R11). -/
def State.writeOut (s : State) (a : Nat) (bs : List Byte) : State := { s with outMem := s.outMem.writeBytes a bs }

/-- `cur_op` of a word written to CMD (R154). -/
def CurOp.ofWord (w : Word) : CurOp :=
  match decodeWord w with
  | .ok i => .command i
  | .error _ => .illegal

/-- Issue of a command word (R139, R154). -/
def State.issue (s : State) (w : Word) : State := { s with status := s.status.issued, curOp := CurOp.ofWord w }

/-- A command word written while one is in execution: dropped, and only OVR is set (R38). -/
def State.dropCommand (s : State) : State := { s with status := s.status.overrun }

/-- Completion without error (R155). -/
def State.finish (s : State) : State := { s with status := s.status.finished }

/-- Taking an exception: completion with an error. Only STATUS is written, so the report is precise (R155, R156). -/
def State.fail (s : State) (c : ErrorCode) : State := { s with status := s.status.failed c }

/-- The return from an exception: the host's write of STATUS (R157, R19). -/
def State.clearStatus (s : State) (v : Word) : State := { s with status := s.status.clearWrittenOnes v }

/-- The completion step of a command whose rule is `rule` (R139, R155). -/
def complete (s : State) (rule : Except Stop State) : Host.Outcome State Fault Refusal :=
  match rule with
  | .ok t => .next t.finish
  | .error (.raise c) => .next (s.fail c)
  | .error (.fault f) => .fault f

/-- The completion step for `cur_op = ILLEGAL` (R155). -/
def execIllegal (s : State) : Host.Outcome State Fault Refusal := complete s (.error (.raise .illegalCmd))

end Sys2Proof.Machine
end

