-- ==== Sys2Proof/Machine/Operands.lean ====
section
/-! DEFINITION. The operands of the commands (R70, R71) and the checks on them, in the order of R153. -/

namespace Sys2Proof.Machine

/-- WIDTH as an integer (R71). -/
def State.widthNat (s : State) : Nat := s.width.toNat

/-- HEIGHT as an integer (R71). -/
def State.heightNat (s : State) : Nat := s.height.toNat

/-- ROW as an integer (R71). -/
def State.rowNat (s : State) : Nat := s.row.toNat

/-- CFG.FORMAT, or BAD_FORMAT (R152). -/
def State.format (s : State) : Except Stop DataFormat :=
  match DataFormat.ofId s.cfg.format with
  | some f => .ok f
  | none => .error (.raise .badFormat)

/-- CFG.SRC_CS and CFG.DST_CS as a legal pair, or BAD_COLORSPACE, or CS_MISMATCH (R152). -/
def State.pair (s : State) : Except Stop ColorPair :=
  match ColorSpace.ofId s.cfg.srcCs, ColorSpace.ofId s.cfg.dstCs with
  | some src, some dst =>
    match ColorPair.of src dst with
    | some p => .ok p
    | none => .error (.raise .csMismatch)
  | _, _ => .error (.raise .badColorspace)

/-- CFG.DST_CS alone, or BAD_COLORSPACE: what ENCODE_HEADER checks (R152). -/
def State.target (s : State) : Except Stop ColorSpace :=
  match ColorSpace.ofId s.cfg.dstCs with
  | some c => .ok c
  | none => .error (.raise .badColorspace)

/-- ZERO_DIM (R152). -/
def State.checkDims (s : State) : Except Stop Unit :=
  if s.widthNat = 0 ∨ s.heightNat = 0 then .error (.raise .zeroDim) else .ok ()

/-- IN_CAPACITY, then OUT_CAPACITY (R152). -/
def State.checkCapacity (s : State) (f : DataFormat) : Except Stop Unit :=
  if s.inst.inCapacity < s.widthNat * s.heightNat then .error (.raise .inCapacity)
  else if s.inst.outCapacity < f.imageSize s.cfg.hdrEn s.widthNat s.heightNat then .error (.raise .outCapacity)
  else .ok ()

/-- ROW_RANGE (R152). -/
def State.checkRow (s : State) : Except Stop Unit :=
  if s.heightNat ≤ s.rowNat then .error (.raise .rowRange) else .ok ()

/-- A conversion that has passed its checks: its format and its pair. -/
structure Job where
  fmt : DataFormat
  pair : ColorPair
  deriving DecidableEq, Repr

/-- The checks that CONVERT and PACK_ROW share, in order (R153). -/
def State.job (s : State) : Except Stop Job := do
  let f ← s.format
  let p ← s.pair
  s.checkDims
  s.checkCapacity f
  return ⟨f, p⟩

end Sys2Proof.Machine
end

