-- ==== Sys2Proof/Machine/HeaderEncoder.lean ====
section
/-! DEFINITION. The Header Encoder and the ENCODE_HEADER command (R134 to R137). -/

namespace Sys2Proof.Machine

/-- `HDR`, the 16 bytes of header layout version 1 (R134). -/
def headerBytes (width height : Nat) (f : DataFormat) (cs : ColorSpace) : List Byte :=
  bytesLE 4 width ++ bytesLE 4 height ++ bytesLE 2 f.id ++ bytesLE 2 cs.id ++ [0x00, 0x00, 0x00, 0x00]

/-- Write the header of the configured image to OUT[0..15]; its colour space is the target (R135, R137). -/
def State.writeHeader (s : State) (f : DataFormat) (cs : ColorSpace) : State :=
  s.writeOut 0 (headerBytes s.widthNat s.heightNat f cs)

/-- The rule of ENCODE_HEADER (R137). -/
def encodeHeaderRule (s : State) : Except Stop State := do
  let f ← s.format
  let cs ← s.target
  s.checkDims
  return s.writeHeader f cs

/-- ENCODE_HEADER (R137). -/
def execEncodeHeader (s : State) : Host.Outcome State Fault Refusal := complete s (encodeHeaderRule s)

end Sys2Proof.Machine
end

