-- ==== Sys2Proof/Machine/Pow.lean ====
section
/-! DEFINITION. `P_POW64` (R82). The default, the correctly rounded power, is computed by interval arithmetic in fixed
point: `x^y = exp (y × ln x)`, every bound rounded outwards, and the result is taken where both ends of the interval
round to one binary64 value. Where they do not (an exact tie is such a case), integer powers decide it exactly. Log
entry 6. -/

namespace Sys2Proof.Machine

/-- Fraction bits of the fixed point. -/
def powBits : Nat := 320

/-- Terms taken of each series: what is left out is below one unit of the fixed point. -/
def powTerms : Nat := 112

/-- More units than the truncations of one series can lose (at most five per term). -/
def powSlack : Int := 1024

/-- A real known to lie between two fixed-point bounds. -/
structure Interval where
  lo : Int
  hi : Int
  deriving DecidableEq, Repr

/-- The sum of two. -/
def Interval.add (a b : Interval) : Interval := ⟨a.lo + b.lo, a.hi + b.hi⟩

/-- An integer multiple: a negative factor swaps the ends. -/
def Interval.scale (k : Int) (a : Interval) : Interval :=
  if 0 ≤ k then ⟨k * a.lo, k * a.hi⟩ else ⟨k * a.hi, k * a.lo⟩

/-- Division by `2^n`, outwards. -/
def Interval.shiftRight (a : Interval) (n : Nat) : Interval := ⟨a.lo / 2 ^ n, -(-a.hi / 2 ^ n)⟩

/-- `acc + Σ term × s2^j / (n + 2j)` over `k` terms, each truncated. -/
def atanhSum : Nat → Nat → Nat → Nat → Nat → Nat
  | 0, _, _, _, acc => acc
  | k + 1, n, term, s2, acc => atanhSum k (n + 2) (term * s2 / 2 ^ powBits) s2 (acc + term / n)

/-- `ln (n / d)` for `1 ≤ n / d ≤ 2`, as `2 atanh ((n − d) / (n + d))`. -/
def lnRatio (n d : Nat) : Interval :=
  let s := (n - d) * 2 ^ powBits / (n + d)
  let lo : Int := 2 * atanhSum powTerms 1 s (s * s / 2 ^ powBits) 0
  ⟨lo, lo + powSlack⟩

/-- `ln 2`. -/
def lnTwo : Interval := lnRatio 2 1

/-- `ln` of a finite positive value of `u` units. -/
def lnUnits (u : Nat) : Interval :=
  let l := Nat.log2 u
  (lnTwo.scale ((l : Int) - unitExp)).add (lnRatio u (2 ^ l))

/-- `acc + Σ term × t^j / ((n + 1) … (n + j))` over `k` terms, each truncated. -/
def expSum : Nat → Nat → Nat → Nat → Nat → Nat
  | 0, _, _, _, acc => acc
  | k + 1, n, term, t, acc => expSum k (n + 1) (term * t / 2 ^ powBits / (n + 1)) t (acc + term)

/-- `exp t` from below, for a fixed-point `t` between 0 and 2. -/
def expLow (t : Nat) : Nat := expSum powTerms 0 (2 ^ powBits) t 0

/-- The binary64 value nearest to `r × 2^q`, `r` in fixed point. -/
def roundScaled (r : Nat) (q : Int) : Word :=
  let p := q + unitExp
  if 0 ≤ p then F64.round false (r * 2 ^ p.toNat) (2 ^ powBits) else F64.round false r (2 ^ (powBits + (-p).toNat))

/-- The correctly rounded `exp z`, where the interval decides it. -/
def expNearest (z : Interval) : Option Word :=
  if (2 : Int) ^ (powBits + 11) < z.lo then some F64.posInf
  else if z.hi < -(2 : Int) ^ (powBits + 11) then some F64.posZero
  else if (2 : Int) ^ (powBits - 80) < z.hi - z.lo then none
  else
    let q := z.lo / lnTwo.hi - 1
    let c := lnTwo.scale q
    let lo := roundScaled (expLow (z.lo - c.hi).toNat) q
    let hi := roundScaled (expLow (z.hi - c.lo).toNat + powSlack.toNat) q
    if lo = hi then some lo else none

/-- The correctly rounded `|x|^y` for finite non-zero `x` and finite `y`, where the interval decides it. -/
def powNearest (x y : Word) : Option Word :=
  expNearest (((lnUnits (F64.units x)).scale (F64.signedUnits y)).shiftRight unitExp)

/-- `n`, where `|y| = n / d` in lowest terms. -/
def powNum (y : Word) : Nat := F64.units y / Nat.gcd (F64.units y) (2 ^ unitExp)

/-- `d`, a power of two, where `|y| = n / d` in lowest terms. -/
def powDen (y : Word) : Nat := 2 ^ unitExp / Nat.gcd (F64.units y) (2 ^ unitExp)

/-- How `|x|^y` compares with `m` halves of a unit, `m × 2^-1075`: both are raised to the power `d`, and the units of `x`
and the halves are cleared. -/
def powCompare (x y : Word) (m : Nat) : Ordering :=
  let n := powNum y
  let d := powDen y
  let half := 2 ^ ((unitExp + 1) * d)
  if F64.sign y then compare (2 ^ (unitExp * n) * half) (m ^ d * F64.units x ^ n)
  else compare (F64.units x ^ n * half) (m ^ d * 2 ^ (unitExp * n))

/-- `|x|^y` rounds to the magnitude pattern `p + 1` or a higher one: it lies above the midpoint of `p` and `p + 1`, or on
it with `p + 1` even. Past the largest finite pattern stands `2^1024`, which is the pattern of an infinity. -/
def powReaches (x y : Word) (p : Nat) : Bool :=
  match powCompare x y (unitsOf 52 p + unitsOf 52 (p + 1)) with
  | .lt => false
  | .eq => decide ((p + 1) % 2 = 0)
  | .gt => true

/-- The highest pattern reached, at least `p` and below `p + 2^k`, no higher than that of an infinity. -/
def powSearch (x y : Word) : Nat → Nat → Nat
  | 0, p => p
  | k + 1, p =>
    let q := p + 2 ^ k
    if decide (q ≤ F64.infMag) && powReaches x y (q - 1) then powSearch x y k q else powSearch x y k p

/-- The correctly rounded `|x|^y` for finite non-zero `x` and finite `y`, in integers. -/
def powExact (x y : Word) : Word := F64.ofSignMag false (powSearch x y 63 0)

/-- The correctly rounded `|x|^y` for finite non-zero `x` and finite `y`. -/
def powMagnitude (x y : Word) : Word :=
  if F64.mag x = F64.mag F64.one then F64.one
  else
    match powNearest x y with
    | some r => r
    | none => powExact x y

/-- `0 < x` and `x` finite. -/
def isFinitePositive (x : Word) : Bool := F64.isFinite x && !F64.sign x && !F64.isZero x

/-- The correctly rounded `x^y`, wherever `x^y` is a real number: `x > 0`; `x = 0 < y` (the sign of the power of −0.0 is
free); `x < 0` and `y` an integer. Elsewhere a free value. -/
def powCorrectlyRounded (x y : Word) : Word :=
  let free := Config.otherPow 0 x y
  if !F64.isFinite x || !F64.isFinite y then free
  else if F64.isZero x then
    (if F64.lt F64.posZero y then F64.ofSignMag (F64.sign x && F64.sign free) 0 else free)
  else if !F64.sign x then powMagnitude x y
  else if powDen y = 1 then F64.ofSignMag (decide (powNum y % 2 = 1)) (F64.mag (powMagnitude x y))
  else free

/-- The power unit before R82's assumptions are imposed. -/
def powRaw (u : PowUnit) (x y : Word) : Word :=
  match u with
  | .other k => Config.otherPow (k + 1) x y
  | .correctlyRounded => powCorrectlyRounded x y

/-- A pattern kept where it is one of the values R82 (c) allows, non-NaN and `≥ +0.0` in the order of R12 (so that −0.0
and +∞ are among them), and otherwise forced among them. -/
def toNonNegative (r : Word) : Word :=
  if F64.le F64.posZero r then r else F64.ofSignMag false (min (F64.mag r) F64.infMag)

/-- `P_POW64`: the power unit under R82's assumptions (a), (b) and (c). -/
def pow64 (u : PowUnit) (x y : Word) : Word :=
  if F64.isNaN x then F64.canonNaN
  else if x = F64.posInf && F64.lt F64.posZero y then F64.posInf
  else if isFinitePositive x then toNonNegative (powRaw u x y)
  else powRaw u x y

end Sys2Proof.Machine
end

