-- ==== Sys2Proof/Machine/ColorTransform.lean ====
section
/-! DEFINITION. The Color Transform unit and the TRANSFORM command (R78 to R98). -/

namespace Sys2Proof.Machine

/-- `TF_DEC`, sRGB to linear (R83). -/
def tfDec (p : Instance) (v : Word) : Word :=
  if F64.le v p.tf.k0 then F64.div v p.tf.phi
  else pow64 p.pow (F64.div (F64.add v p.tf.a) p.tf.a1) p.tf.g

/-- `TF_ENC`, linear to sRGB (R84). -/
def tfEnc (p : Instance) (v : Word) : Word :=
  if F64.le v p.tf.l0 then F64.mul p.tf.phi v
  else F64.sub (F64.mul p.tf.a1 (pow64 p.pow v p.tf.gi)) p.tf.a

/-- One row of `MATMUL`, in its fixed evaluation order (R86). -/
def dotRow (m : MatrixRow) (c0 c1 c2 : Word) : Word :=
  F64.add (F64.add (F64.mul m.c0 c0) (F64.mul m.c1 c1)) (F64.mul m.c2 c2)

/-- `MATMUL` on the colour channels; lane A is left as it is (R86, R78). -/
def matmul (m : Matrix) (s : Sample) : Sample :=
  { s with
    r := dotRow m.row0 s.r s.g s.b
    g := dotRow m.row1 s.r s.g s.b
    b := dotRow m.row2 s.r s.g s.b }

/-- A function on each colour channel; lane A is left as it is (R78). -/
def Sample.mapColor (s : Sample) (f : Word → Word) : Sample := { s with r := f s.r, g := f s.g, b := f s.b }

/-- NaN canonicalisation of one lane (R87). -/
def canon (v : Word) : Word := if F64.isNaN v then F64.canonNaN else v

/-- `CT` on a legal pair (R78, R88 to R97). -/
def ct (p : Instance) (pair : ColorPair) (s : Sample) : Sample :=
  match pair with
  | .nonColor => s
  | .xyzToXyz => s
  | .srgbToSrgb => s
  | .linearToLinear => s
  | .srgbToLinear => (s.mapColor (tfDec p)).mapColor canon
  | .linearToSrgb => (s.mapColor (tfEnc p)).mapColor canon
  | .linearToXyz => (matmul p.matFwd s).mapColor canon
  | .xyzToLinear => (matmul p.matInv s).mapColor canon
  | .srgbToXyz => (matmul p.matFwd (s.mapColor (tfDec p))).mapColor canon
  | .xyzToSrgb => ((matmul p.matInv s).mapColor (tfEnc p)).mapColor canon

/-- The rule of TRANSFORM (R98). -/
def transformRule (s : State) : Except Stop State := do
  let p ← s.pair
  return { s with sout := ct s.inst p s.sin }

/-- TRANSFORM (R98). -/
def execTransform (s : State) : Host.Outcome State Fault Refusal := complete s (transformRule s)

end Sys2Proof.Machine
end

