-- ==== Sys2Proof/Machine/Quantizer.lean ====
section
/-! DEFINITION. The Channel Quantizer unit and the ENCODE_PIXEL command (R101 to R121). -/

namespace Sys2Proof.Machine

/-- Encoded bytes and the clamp events their encoding counted (R103). -/
structure Encoded where
  bytes : List Byte
  events : Nat
  deriving DecidableEq, Repr

/-- One after the other. -/
def Encoded.append (a b : Encoded) : Encoded := ⟨a.bytes ++ b.bytes, a.events + b.events⟩

/-- `FLT_MAX`, the largest finite binary32 value (R72, R104). -/
def fltMax : Word := 0x47EFFFFFE0000000

/-- `HALF_MAX`, the largest finite binary16 value, 65504 (R72, R105). -/
def halfMax : Word := 0x40EFFC0000000000

/-- `RGBE_MAX` (R107). -/
def rgbeMax : Word := 0x47DFE00000000000

/-- 255.0 -/
def two55 : Word := 0x406FE00000000000

/-- The clamp of a float kind to `±limit`, with its clamp-event count: a NaN becomes +0.0 (R102, R104, R105). -/
def clampFloat (limit v : Word) : Word × Nat :=
  if F64.isNaN v then (F64.posZero, 1)
  else if F64.lt limit v then (limit, 1)
  else if F64.lt v (F64.neg limit) then (F64.neg limit, 1)
  else (v, 0)

/-- `Q_F32` (R104). -/
def qF32 (v : Word) : Encoded :=
  let c := clampFloat fltMax v
  ⟨bytesLE 4 (rnd32 c.1).toNat, c.2⟩

/-- `Q_F16` (R105). -/
def qF16 (v : Word) : Encoded :=
  let c := clampFloat halfMax v
  ⟨bytesLE 2 (rnd16 c.1).toNat, c.2⟩

/-- The clamp of fixed8 to [0, 1], with its clamp-event count; −0.0 is no event (R106). -/
def clampUnit (v : Word) : Word × Nat :=
  if F64.isNaN v then (F64.posZero, 1)
  else if F64.lt v F64.posZero then (F64.posZero, 1)
  else if F64.lt F64.one v then (F64.one, 1)
  else (v, 0)

/-- `floor(t + 1/2)` of a non-negative finite `t`, in exact arithmetic (R106). -/
def roundHalfUp (t : Word) : Nat := (2 * F64.units t + 2 ^ unitExp) / 2 ^ (unitExp + 1)

/-- `Q_FX8` (R106). -/
def qFx8 (v : Word) : Encoded :=
  let c := clampUnit v
  ⟨[BitVec.ofNat 8 (roundHalfUp (F64.mul c.1 two55))], c.2⟩

/-- `CLAMP_E` (R107). -/
def clampRgbe (c : Word) : Word × Nat :=
  if F64.isNaN c then (F64.posZero, 1)
  else if F64.lt c F64.posZero then (F64.posZero, 1)
  else if F64.lt rgbeMax c then (rgbeMax, 1)
  else if F64.isZero c then (F64.posZero, 0)
  else (c, 0)

/-- The shared exponent of a positive finite value: the `e` with `2^(e−1) ≤ v < 2^e` (R108). -/
def sharedExponent (v : Word) : Int := (Nat.log2 (F64.units v) : Int) + 1 - unitExp

/-- `floor(c × 2^(8 − e))` in exact arithmetic (R109): `c` has `units c` units of 2^-1074, and every `e` that
occurs is at least −127, so the divisor `2^(e + 1074)` is a power of two. -/
def rgbeMantissa (e : Int) (c : Word) : Nat := F64.units c * 2 ^ 8 / 2 ^ (e + unitExp).toNat

/-- `Q_RGBE` (R109). -/
def qRgbe (c0 c1 c2 : Word) : Encoded :=
  let r := clampRgbe c0
  let g := clampRgbe c1
  let b := clampRgbe c2
  let events := r.2 + g.2 + b.2
  let v := F64.max (F64.max r.1 g.1) b.1
  let e := sharedExponent v
  if F64.isZero v || decide (e < -127) then ⟨[0x00, 0x00, 0x00, 0x00], events⟩
  else
    ⟨[BitVec.ofNat 8 (rgbeMantissa e r.1), BitVec.ofNat 8 (rgbeMantissa e g.1),
      BitVec.ofNat 8 (rgbeMantissa e b.1), BitVec.ofNat 8 (e + 128).toNat], events⟩

/-- `PE`, the encoding of one transformed sample (R110 to R120). -/
def pe (f : DataFormat) (t : Sample) : Encoded :=
  match f with
  | .r32f => qF32 t.r
  | .rg32f => (qF32 t.r).append (qF32 t.g)
  | .rgba32f => (((qF32 t.r).append (qF32 t.g)).append (qF32 t.b)).append (qF32 t.a)
  | .r16f => qF16 t.r
  | .packedR16f => qF16 t.r
  | .rg16f => (qF16 t.r).append (qF16 t.g)
  | .rgba16f => (((qF16 t.r).append (qF16 t.g)).append (qF16 t.b)).append (qF16 t.a)
  | .r8 => qFx8 t.r
  | .packedR8 => qFx8 t.r
  | .rgbe8 => qRgbe t.r t.g t.b

/-- QOUT0: bytes 0 to 7 of the encoded pixel, 0 past its end (R32). -/
def quantLow (q : List Byte) : Word := BitVec.ofNat 64 (ofBytesLE (q.take 8))

/-- QOUT1: bytes 8 to 15 of the encoded pixel, 0 past its end (R32). -/
def quantHigh (q : List Byte) : Word := BitVec.ofNat 64 (ofBytesLE ((q.drop 8).take 8))

/-- The result registers of ENCODE_PIXEL: QOUT0, QOUT1 and STATUS.QLEN = BPP (R32, R121). -/
def State.setQuantized (s : State) (f : DataFormat) (q : List Byte) : State :=
  { s with
    qout0 := quantLow q
    qout1 := quantHigh q
    status := { s.status with qlen := BitVec.ofNat 5 f.bpp } }

/-- The rule of ENCODE_PIXEL (R121). -/
def encodePixelRule (s : State) : Except Stop State := do
  let f ← s.format
  let q := pe f s.sin
  return (s.setQuantized f q.bytes).countClamps q.events

/-- ENCODE_PIXEL (R121). -/
def execEncodePixel (s : State) : Host.Outcome State Fault Refusal := complete s (encodePixelRule s)

end Sys2Proof.Machine
end

