-- ==== Sys2Proof/Machine/Packer.lean ====
section
/-! DEFINITION. The scanline packer and the PACK_ROW command (R124 to R131). -/

namespace Sys2Proof.Machine

/-- The encoding of the pixel whose sample is at index `i` of IN, or UNWRITTEN_IN (R128, R130). -/
def State.encodePixelAt (s : State) (j : Job) (i : Nat) : Except Stop Encoded :=
  match s.readSample i with
  | some smp => .ok (pe j.fmt (ct s.inst j.pair smp))
  | none => .error (.fault .unwrittenIn)

/-- The encodings of `n` pixels from index `i` up, left to right (R128). -/
def State.encodePixels (s : State) (j : Job) : Nat → Nat → Except Stop Encoded
  | 0, _ => .ok ⟨[], 0⟩
  | n + 1, i => do
    let q ← s.encodePixelAt j i
    let rest ← s.encodePixels j n (i + 1)
    return q.append rest

/-- `ROWB(y)`: the bytes of row `y`, its zero padding included, and its clamp events (R127, R128). -/
def State.rowB (s : State) (j : Job) (y : Nat) : Except Stop Encoded := do
  let q ← s.encodePixels j s.widthNat (y * s.widthNat)
  return q.append ⟨List.replicate (j.fmt.pad s.widthNat) 0x00, 0⟩

/-- Where row `y` starts in OUT (R56, R129). -/
def State.rowAddr (s : State) (j : Job) (y : Nat) : Nat :=
  headerLength s.cfg.hdrEn + y * j.fmt.stride s.widthNat

/-- The rule of PACK_ROW (R131). -/
def packRowRule (s : State) : Except Stop State := do
  let j ← s.job
  s.checkRow
  let q ← s.rowB j s.rowNat
  return (s.writeOut (s.rowAddr j s.rowNat) q.bytes).countClamps q.events

/-- PACK_ROW (R131). -/
def execPackRow (s : State) : Host.Outcome State Fault Refusal := complete s (packRowRule s)

end Sys2Proof.Machine
end

