-- ==== Sys2Proof/Machine/Sequencer.lean ====
section
/-! DEFINITION. The sequencer: CONVERT and NOP (R139 to R142). -/

namespace Sys2Proof.Machine

/-- NOP (R140): nothing but the completion. -/
def execNop (s : State) : Host.Outcome State Fault Refusal := complete s (.ok s)

/-- Write `n` rows from row `y` up, each at its place in OUT, and count their clamp events (R141). Only OUT and the
count change, so every row reads the same configuration and IN. -/
def State.convertRows (s : State) (j : Job) : Nat → Nat → Memory → Nat → Except Stop (Memory × Nat)
  | 0, _, out, events => .ok (out, events)
  | n + 1, y, out, events => do
    let q ← s.rowB j y
    s.convertRows j n (y + 1) (out.writeBytes (s.rowAddr j y) q.bytes) (events + q.events)

/-- The header, when CFG.HDR_EN = 1 (R141). -/
def State.headerIfEnabled (s : State) (j : Job) : State :=
  if s.cfg.hdrEn then s.writeHeader j.fmt j.pair.target else s

/-- The rule of CONVERT (R141). -/
def convertRule (s : State) : Except Stop State := do
  let j ← s.job
  let r ← s.convertRows j s.heightNat 0 (s.headerIfEnabled j).outMem 0
  return { s with outMem := r.1 }.countClamps r.2

/-- CONVERT (R141). -/
def execConvert (s : State) : Host.Outcome State Fault Refusal := complete s (convertRule s)

end Sys2Proof.Machine
end

