-- ==== Sys2Proof/Machine/Dispatch.lean ====
section
/-! DEFINITION. One arm per command. -/

namespace Sys2Proof.Machine

/-- The completion step of a command (R139). -/
def exec (i : Instr) (s : State) : Host.Outcome State Fault Refusal :=
  match i with
  | .nop => Sys2Proof.Machine.execNop s
  | .convert => Sys2Proof.Machine.execConvert s
  | .encodeHeader => Sys2Proof.Machine.execEncodeHeader s
  | .packRow => Sys2Proof.Machine.execPackRow s
  | .transform => Sys2Proof.Machine.execTransform s
  | .encodePixel => Sys2Proof.Machine.execEncodePixel s

end Sys2Proof.Machine
end

