-- ==== Sys2Proof/Machine/HostPort.lean ====
section
/-! DEFINITION. The host's side: the register window (R18 to R36), accesses to the three spaces (R45 to R52), the rules
while BUSY = 1 (R23, R173 to R176), WAIT (R76), the reset input (R168), and which agent moves next (R59, R149). -/

namespace Sys2Proof.Machine

/-- The registers of the window (R18). -/
inductive Reg where
  | cmd
  | status
  | cfg
  | width
  | height
  | row
  | outSize
  | rowStride
  | sin (k : Fin 4)
  | sout (k : Fin 4)
  | qout0
  | qout1
  | clampCount
  | version
  | reserved
  deriving DecidableEq, Repr

/-- The register at a byte offset of the window; 0xA0 to 0xF8 are reserved (R18). -/
def Reg.ofOffset (off : Nat) : Reg :=
  match off with
  | 0x00 => .cmd
  | 0x08 => .status
  | 0x10 => .cfg
  | 0x18 => .width
  | 0x20 => .height
  | 0x28 => .row
  | 0x30 => .outSize
  | 0x38 => .rowStride
  | 0x40 => .sin 0
  | 0x48 => .sin 1
  | 0x50 => .sin 2
  | 0x58 => .sin 3
  | 0x60 => .sout 0
  | 0x68 => .sout 1
  | 0x70 => .sout 2
  | 0x78 => .sout 3
  | 0x80 => .qout0
  | 0x88 => .qout1
  | 0x90 => .clampCount
  | 0x98 => .version
  | _ => .reserved

/-- CFG as it reads (R21, R71). -/
def Cfg.word (c : Cfg) : Word :=
  c.format.setWidth 64 ||| BitVec.ofNat 64 (c.srcCs.toNat * 2 ^ 4) ||| BitVec.ofNat 64 (c.dstCs.toNat * 2 ^ 8)
    ||| bitAt c.hdrEn 16 ||| bitAt c.irqEn 17

/-- CFG as a word writes it: the reserved bits are ignored (R21, R22). -/
def Cfg.ofWord (v : Word) : Cfg where
  format := field v 0 4
  srcCs := field v 4 4
  dstCs := field v 8 4
  hdrEn := v.getLsbD 16
  irqEn := v.getLsbD 17

/-- OUT_SIZE (R28). -/
def State.outSize (s : State) : Word :=
  match DataFormat.ofId s.cfg.format with
  | some f => BitVec.ofNat 64 (min (f.imageSize s.cfg.hdrEn s.widthNat s.heightNat) (2 ^ 64 - 1))
  | none => 0

/-- ROW_STRIDE (R29). -/
def State.rowStride (s : State) : Word :=
  match DataFormat.ofId s.cfg.format with
  | some f => BitVec.ofNat 64 (f.stride s.widthNat)
  | none => 0

/-- CLAMP_COUNT as it reads: 0 where the counter is not implemented (R33). -/
def State.clampRead (s : State) : Word := if s.inst.hasClampCounter then s.clampCount else 0

/-- The value of a register (R18). -/
def State.regValue (s : State) : Reg → Word
  | .cmd => 0
  | .status => s.status.word
  | .cfg => s.cfg.word
  | .width => s.width.setWidth 64
  | .height => s.height.setWidth 64
  | .row => s.row.setWidth 64
  | .outSize => s.outSize
  | .rowStride => s.rowStride
  | .sin k => s.sin.lane k
  | .sout k => s.sout.lane k
  | .qout0 => s.qout0
  | .qout1 => s.qout1
  | .clampCount => s.clampRead
  | .version => 0x0000000000000001
  | .reserved => 0

/-- What a host read of a register returns, `free` being a free value: while BUSY = 1 a read of SOUT, QOUT, CLAMP_COUNT
or STATUS.QLEN returns any value (R175). An absent CLAMP_COUNT still reads 0 (R33, log entry 12). -/
def State.readReg (s : State) (free : Word) (r : Reg) : Word :=
  if s.status.busy then
    match r with
    | .sout _ | .qout0 | .qout1 => free
    | .clampCount => if s.inst.hasClampCounter then free else 0
    | .status => { s.status with qlen := field free 0 5 }.word
    | .cmd | .cfg | .width | .height | .row | .outSize | .rowStride | .sin _ | .version | .reserved => s.regValue r
  else s.regValue r

/-- A host write of a configuration register while BUSY = 0 (R21, R25 to R27, R30, R33); the read-only and reserved
registers ignore it (R18, R35). CMD and STATUS are `writeReg`'s. -/
def State.configure (s : State) (r : Reg) (v : Word) : State :=
  match r with
  | .cfg => { s with cfg := Cfg.ofWord v }
  | .width => { s with width := field v 0 32 }
  | .height => { s with height := field v 0 32 }
  | .row => { s with row := field v 0 32 }
  | .sin k => { s with sin := s.sin.setLane k v }
  | .clampCount => { s with clampCount := if s.inst.hasClampCounter then 0 else s.clampCount }
  | .cmd | .status | .outSize | .rowStride | .sout _ | .qout0 | .qout1 | .version | .reserved => s

/-- A host write of a register (R18, R19, R23, R36, R38, R176). -/
def State.writeReg (s : State) (r : Reg) (v : Word) : State :=
  match r with
  | .cmd => if s.status.busy then s.dropCommand else s.issue v
  | .status => s.clearStatus v
  | .cfg | .width | .height | .row | .sin _ | .clampCount | .outSize | .rowStride | .sout _ | .qout0 | .qout1
  | .version | .reserved => if s.status.busy then s else s.configure r v

/-- The bytes of a space (R45). -/
def State.spaceBytes (s : State) : Space → Nat
  | .regs => 256
  | .input => inBytes s.inst
  | .output => s.inst.outCapacity

/-- The access widths of a space (R46, R48, R49). -/
def State.widthLegal (s : State) (sp : Space) (width : Nat) : Bool :=
  match sp with
  | .regs => decide (width = 8)
  | .input => decide (width = laneBytes s.inst.sampleFmt)
  | .output => decide (width = 1) || decide (width = 2) || decide (width = 4) || decide (width = 8)

/-- A host access has a meaning: its width is one of the space's, it is aligned to its width, and no byte lies past the
end of the space (R50). -/
def State.accessLegal (s : State) (sp : Space) (addr width : Nat) : Bool :=
  s.widthLegal sp width && decide (addr % width = 0) && decide (addr + width ≤ s.spaceBytes sp)

/-- The next free value of the run. -/
def State.freeValue (s : State) : Word := Config.freeRead s.outside.draws

/-- A free value of `n` bytes. -/
def State.freeBytes (s : State) (n : Nat) : Word := BitVec.ofNat 64 (s.freeValue.toNat % 2 ^ (8 * n))

/-- Hand a read's value to the host; the next free value is a fresh one. -/
def State.returnRead (s : State) (v : Word) : State :=
  { s with outside := { s.outside with reads := v :: s.outside.reads, draws := s.outside.draws + 1 } }

/-- A host read of `n` bytes of IN: what the host last wrote (R175); an unwritten lane returns a free value (log entry
11). -/
def State.hostReadIn (s : State) (addr n : Nat) : Host.Outcome State Fault Refusal :=
  match s.inMem.readBytes addr n with
  | some bs => .next (s.returnRead (BitVec.ofNat 64 (ofBytesLE bs)))
  | none => .next (s.returnRead (s.freeBytes n))

/-- A host read of `n` bytes of OUT (R52): an unwritten byte is UNWRITTEN_OUT (R160, log entry 10); while BUSY = 1 it
returns any value (R175). -/
def State.hostReadOut (s : State) (addr n : Nat) : Host.Outcome State Fault Refusal :=
  match s.outMem.readBytes addr n with
  | some bs =>
    .next (s.returnRead (if s.status.busy then s.freeBytes n else BitVec.ofNat 64 (ofBytesLE bs)))
  | none => .fault .unwrittenOut

/-- A host write of one lane of IN (R46); while BUSY = 1 it is HAZARD_IN (R173). -/
def State.hostWriteIn (s : State) (addr n : Nat) (v : Word) : Host.Outcome State Fault Refusal :=
  if s.status.busy then .fault .hazardIn
  else .next { s with inMem := s.inMem.writeBytes addr (bytesLE n v.toNat) }

/-- A host write of `n` bytes of OUT (R52); while BUSY = 1 it is HAZARD_OUT (R174). -/
def State.hostWriteOut (s : State) (addr n : Nat) (v : Word) : Host.Outcome State Fault Refusal :=
  if s.status.busy then .fault .hazardOut
  else .next (s.writeOut addr (bytesLE n v.toNat))

/-- The host reads STATUS. -/
def State.pollStatus (s : State) : State := s.returnRead (s.readReg s.freeValue .status)

/-- Put an operation back at the head of those to come. -/
def State.pushOp (s : State) (op : HostOp) : State :=
  { s with outside := { s.outside with ops := op :: s.outside.ops } }

/-- One operation from outside; `s` is the state with it taken off those to come. An ill-formed access is refused
before anything else is looked at (R50). -/
def hostStep (op : HostOp) (s : State) : Host.Outcome State Fault Refusal :=
  match op with
  | .write sp addr width v =>
    if s.accessLegal sp addr width then
      match sp with
      | .regs => .next (s.writeReg (Reg.ofOffset addr) v)
      | .input => s.hostWriteIn addr width v
      | .output => s.hostWriteOut addr width v
    else .refused .illFormedAccess
  | .read sp addr width =>
    if s.accessLegal sp addr width then
      match sp with
      | .regs => .next (s.returnRead (s.readReg s.freeValue (Reg.ofOffset addr)))
      | .input => s.hostReadIn addr width
      | .output => s.hostReadOut addr width
    else .refused .illFormedAccess
  | .wait => .next (if s.status.busy then s.pollStatus.pushOp .wait else s.pollStatus)
  | .reset => .next (State.resetOf s.inst s.outside)

/-- Who moves next. -/
inductive Mover where
  | idle
  | engine
  | host (op : HostOp)
  deriving DecidableEq, Repr

/-- Who moves next: while BUSY = 0 the host, as long as it has operations; while BUSY = 1 the head of `turns` says, and
the engine moves where there is none, or where it names a host that has nothing left to do. `turns` being finite, every
command completes after finitely many host steps (R149). -/
def State.mover (s : State) : Mover :=
  match s.status.busy, s.outside.turns, s.outside.ops with
  | false, _, [] => .idle
  | false, _, op :: _ => .host op
  | true, .host :: _, op :: _ => .host op
  | true, .host :: _, [] => .engine
  | true, .engine :: _, _ => .engine
  | true, [], _ => .engine

/-- A turn is used up by each step taken while BUSY = 1. -/
def State.useTurn (s : State) : State :=
  { s with outside := { s.outside with turns := if s.status.busy then s.outside.turns.tail else s.outside.turns } }

/-- Take the oldest operation off those to come. -/
def State.takeOp (s : State) : State :=
  { s with outside := { s.outside with ops := s.outside.ops.tail } }

/-- The platform asserts reset next. -/
def State.resetNext (s : State) : Bool := decide (s.outside.ops.head? = some .reset)

/-- A step's outcome, with R160's mark: a model fault sets it and changes nothing else (log entry 9). -/
def State.settle (s : State) (o : Host.Outcome State Fault Refusal) : Host.Outcome State Fault Refusal :=
  match o with
  | .next t => .next t
  | .fault f => .next { s with faultMark := some f }
  | .refused r => .refused r

end Sys2Proof.Machine
end

