-- ==== Sys2Proof/Machine/Turns.lean ====
section
/-! DEFINITION. What each kind of step does: the engine's, the host's, and one with the model-fault mark set. -/

namespace Sys2Proof.Machine

/-- The engine's completion step on `cur_op` (R139, R155). -/
def engineStep (s : State) : Host.Outcome State Fault Refusal :=
  match s.curOp with
  | .command i => exec i s
  | .illegal => execIllegal s

/-- A step of a block with the model-fault mark `f` set. Nothing but the platform's reset leaves that state (R160, R168,
R169); of anything else that comes next the outcome is unknown. Log entry 8. -/
def markedStep (f : Fault) (s : State) : Host.Outcome State Fault Refusal :=
  if s.resetNext then hostStep .reset s.useTurn.takeOp else .fault f

/-- A step of a block with no mark: nothing while it is idle with no operation to come (R167), the engine's completion,
or the oldest operation from outside (R59). -/
def unmarkedStep (s : State) : Host.Outcome State Fault Refusal :=
  match s.mover with
  | .idle => .next s
  | .engine => s.useTurn.settle (engineStep s.useTurn)
  | .host op => s.useTurn.takeOp.settle (hostStep op s.useTurn.takeOp)

end Sys2Proof.Machine
end

