-- ==== Sys2Proof/Machine/Step.lean ====
section
/-! DEFINITION. One step of the total order of host accesses and engine steps (R59). -/

namespace Sys2Proof.Machine

/-- One step. -/
def step (s : State) : Host.Outcome State Fault Refusal :=
  match s.faultMark with
  | some f => markedStep f s
  | none => unmarkedStep s

/-- `s` with the command word `w` just issued and the engine's turn next, so that the next step is the completion of
that command and of nothing else. Log entry 2. -/
def State.withFetchWord (s : State) (nbits w : Nat) : State :=
  let t := s.issue (tableWord nbits w)
  { t with faultMark := none, outside := { t.outside with turns := .engine :: t.outside.turns } }

end Sys2Proof.Machine
end

