-- ==== Sys2Proof/Machine/HostNotation.lean ====
section
/-! DEFINITION. The host-program notation: operations and pseudo-operations as bus transactions (R75 to R77). -/

namespace Sys2Proof.Machine

/-- The byte offset of a register of the window (R18); for the reserved ones, the first of them. -/
def Reg.offset : Reg → Nat
  | .cmd => 0x00
  | .status => 0x08
  | .cfg => 0x10
  | .width => 0x18
  | .height => 0x20
  | .row => 0x28
  | .outSize => 0x30
  | .rowStride => 0x38
  | .sin k => 0x40 + 8 * k.val
  | .sout k => 0x60 + 8 * k.val
  | .qout0 => 0x80
  | .qout1 => 0x88
  | .clampCount => 0x90
  | .version => 0x98
  | .reserved => 0xA0

/-- `WR <reg>, <v64>` (R75). -/
def opWr (r : Reg) (v : Word) : HostOp := .write .regs r.offset 8 v

/-- `RD <reg>` (R75). -/
def opRd (r : Reg) : HostOp := .read .regs r.offset 8

/-- `WRIN <i>, <k>, <f64>`, the lane's bit pattern in the sample format (R75, R77). -/
def opWrin (fmt : SampleFmt) (i : Nat) (k : Fin 4) (pattern : Word) : HostOp :=
  .write .input (laneAddr fmt i k) (laneBytes fmt) pattern

/-- `RDOUT <a>, <n>` (R75). -/
def opRdout (a n : Nat) : HostOp := .read .output a n

/-- `WROUT <a>, <n>, <v>` (R75). -/
def opWrout (a n : Nat) (v : Word) : HostOp := .write .output a n v

/-- `CMD <mnemonic>` (R76). -/
def opCmd (i : Instr) : HostOp := opWr .cmd (encode i)

/-- `CLRST` (R76). -/
def opClrst : HostOp := opWr .status 0x000000000000000E

/-- `CFG <fmt>, <src>, <dst>, <hdr>, <irq>` (R71, R76). -/
def opCfg (f : DataFormat) (src dst : ColorSpace) (hdr irq : Bool) : HostOp :=
  opWr .cfg (BitVec.ofNat 64 (f.id + src.id * 2 ^ 4 + dst.id * 2 ^ 8 + hdr.toNat * 2 ^ 16 + irq.toNat * 2 ^ 17))

/-- `SAMPLE <r>, <g>, <b>, <a>` (R76). -/
def opSample (s : Sample) : List HostOp := [opWr (.sin 0) s.r, opWr (.sin 1) s.g, opWr (.sin 2) s.b, opWr (.sin 3) s.a]

end Sys2Proof.Machine
end

