-- ==== Sys2Proof/Safety.lean ====
section
/-! DEFINITION. What claims are stated in: the invariant of the state, the end of a run and what it observes (R150),
and a good run (R160). -/

namespace Sys2Proof.Machine

/-- What holds of the state at every moment of a run of a legal instance. -/
structure State.Inv (s : State) : Prop where
  /-- The parameters are legal (R172). -/
  legal : s.inst.wellFormed = true
  /-- IN keeps its canonical form. -/
  inWf : s.inMem.wf = true
  /-- OUT keeps its canonical form. -/
  outWf : s.outMem.wf = true
  /-- No byte of IN lies past its end (R45). -/
  inBelow : s.inMem.below (inBytes s.inst) = true
  /-- No byte of OUT lies past its end (R42). -/
  outBelow : s.outMem.below s.inst.outCapacity = true
  /-- ERRCODE is 0 exactly when ERR = 0 (R19). -/
  errcodeIffErr : s.status.err = false ↔ s.status.errcode = 0
  /-- ERRCODE values 9 to 15 are never produced (R152). -/
  errcodeMax : s.status.errcode.toNat ≤ 8
  /-- While a command is in execution no outcome is reported (R154). -/
  busyReportsNothing : s.status.busy = true → s.status.done = false ∧ s.status.err = false
  /-- QOUT bytes at positions from QLEN up read 0, and QLEN is at most 16 (R32, R19). -/
  quantized : s.qout0.toNat + 2 ^ 64 * s.qout1.toNat < 256 ^ s.status.qlen.toNat ∧ s.status.qlen.toNat ≤ 16
  /-- Without a clamp counter there is no count (R33). -/
  noCounter : s.inst.hasClampCounter = false → s.clampCount = 0

/-- A run has ended: the host has executed its last operation and BUSY = 0 (R150). -/
def State.finished (s : State) : Bool := s.outside.ops.isEmpty && !s.status.busy

/-- What the end of a run observes: the register window, OUT and the model-fault mark (R150). -/
structure Observation where
  window : List Word
  out : Memory
  mark : Option Fault
  deriving DecidableEq, Repr

/-- The values of the 32 registers of the window, in the order of their offsets (R18). -/
def State.window (s : State) : List Word := (List.range 32).map fun k => s.regValue (Reg.ofOffset (8 * k))

/-- The observation of a state at the end of a run (R150). -/
def State.observe (s : State) : Observation := ⟨s.window, s.outMem, s.faultMark⟩

/-- A good final state: the run has ended and no model fault is marked (R150, R160). -/
def State.goodFinal (s : State) : Bool := s.finished && decide (s.faultMark = none)

/-- CONVERT's checks all pass, and `j` is its format and pair (R141, R153). -/
structure State.Convertible (s : State) (j : Job) : Prop where
  fmt : DataFormat.ofId s.cfg.format = some j.fmt
  pair : ∃ src dst, ColorSpace.ofId s.cfg.srcCs = some src ∧ ColorSpace.ofId s.cfg.dstCs = some dst ∧
    ColorPair.of src dst = some j.pair
  width : s.width.toNat ≠ 0
  height : s.height.toNat ≠ 0
  input : s.width.toNat * s.height.toNat ≤ s.inst.inCapacity
  output : j.fmt.imageSize s.cfg.hdrEn s.width.toNat s.height.toNat ≤ s.inst.outCapacity

/-- Samples `i` to `i + n - 1` of IN are written (R46). -/
def State.samplesWritten (s : State) (i n : Nat) : Prop := ∀ k, k < n → (s.readSample (i + k)).isSome = true

/-- The clamp events of the pixel at index `i` (R103). -/
def State.pixelEvents (s : State) (j : Job) (i : Nat) : Nat :=
  match s.readSample i with
  | some smp => (pe j.fmt (ct s.inst j.pair smp)).events
  | none => 0

/-- The clamp events of `n` pixels from index `i` up. -/
def State.eventsOf (s : State) (j : Job) (i n : Nat) : Nat :=
  ((List.range n).map fun k => s.pixelEvents j (i + k)).sum

/-- One PACK_ROW for each row index of a list, in its order; none where one of them faults. -/
def packRows : List (BitVec 32) → State → Option State
  | [], s => some s
  | y :: ys, s =>
    match exec .packRow { s with row := y } with
    | .next t => packRows ys t
    | .fault _ => none
    | .refused _ => none

/-- The state after `n` steps, none of which a fault or a refusal stopped. -/
def State.after (n : Nat) (s : State) : Option State :=
  match Sys2Proof.core.run n s with
  | .next t => some t
  | .fault _ => none
  | .refused _ => none

end Sys2Proof.Machine
end

