-- ==== Sys2Proof/Certificates/Slice0/Obligations.lean ====
section
/-! DEFINITION. The statements for the provers. -/

open Sys2Proof Sys2Proof.Machine

/-! ### Encoding -/

/-- R65: each opcode of the map, as the word written to CMD, decodes to its command. -/
def Obligations.OpcodeMapDecodes : Prop :=
  decodeWord 0x0000000000000000 = .ok .nop ∧ decodeWord 0x0000000000000001 = .ok .convert ∧
  decodeWord 0x0000000000000002 = .ok .encodeHeader ∧ decodeWord 0x0000000000000003 = .ok .packRow ∧
  decodeWord 0x0000000000000004 = .ok .transform ∧ decodeWord 0x0000000000000005 = .ok .encodePixel

/-- R63 to R66: a word decodes to a command exactly when it is that command's encoding. -/
def Obligations.CommandWordsAreExactlyTheEncodings : Prop :=
  ∀ (w : Word) (i : Instr), decodeWord w = .ok i ↔ w = encode i

/-- R49, R51, R64: decoding a command's eight little-endian bytes gives it back with the bytes that follow, and only
those bytes decode to it. -/
def Obligations.ByteDecodingInvertsEncoding : Prop :=
  ∀ (i : Instr) (bs rest : List Byte), decodeBytes bs = .ok (i, rest) ↔ bs = encodeBytes i ++ rest

/-! ### Issue, completion, the error report -/

/-- R154, R38: a command word written while BUSY = 0 is issued; written while BUSY = 1 it sets OVR and nothing else. -/
def Obligations.CommandWriteIssuesOrOverruns : Prop :=
  ∀ (s : State) (w : Word),
    (s.status.busy = false → ∃ c : CurOp,
      s.writeReg .cmd w =
        { s with status := { s.status with busy := true, done := false, err := false, errcode := 0 }, curOp := c } ∧
      (∀ i : Instr, rsvField w = 0 → opField w = opcodeOf i → c = .command i) ∧
      (rsvField w ≠ 0 ∨ 0x05 < (opField w).toNat → c = .illegal)) ∧
    (s.status.busy = true → s.writeReg .cmd w = { s with status := { s.status with ovr := true } })

/-- R66, R155: an illegal command in execution completes with ILLEGAL_CMD, and nothing but STATUS changes. -/
def Obligations.IllegalCommandReportsIllegalCmd : Prop :=
  ∀ s : State, s.curOp = .illegal →
    engineStep s = .next { s with status := { s.status with busy := false, done := true, err := true, errcode := 1 } }

/-- R155, R156: a command that completes clears BUSY and sets DONE; either it ends with an error and STATUS is all that
changes, or ERR and ERRCODE stay as they are. -/
def Obligations.ErrorReportIsPrecise : Prop :=
  ∀ (i : Instr) (s t : State), exec i s = .next t →
    (∃ c : ErrorCode, t =
      { s with status := { s.status with busy := false, done := true, err := true, errcode := c.number } }) ∨
    (t.status.busy = false ∧ t.status.done = true ∧ t.status.err = s.status.err ∧ t.status.errcode = s.status.errcode ∧
      t.status.ovr = s.status.ovr)

/-- R152, R19: STATUS as the host reads it after each error, from reset. -/
def Obligations.ErrorCodesReadInStatus : Prop :=
  ∀ (p : Instance) (o : Outside),
    ((State.resetOf p o).fail .illegalCmd).regValue .status = 0x106 ∧
    ((State.resetOf p o).fail .badFormat).regValue .status = 0x206 ∧
    ((State.resetOf p o).fail .badColorspace).regValue .status = 0x306 ∧
    ((State.resetOf p o).fail .csMismatch).regValue .status = 0x406 ∧
    ((State.resetOf p o).fail .zeroDim).regValue .status = 0x506 ∧
    ((State.resetOf p o).fail .inCapacity).regValue .status = 0x606 ∧
    ((State.resetOf p o).fail .outCapacity).regValue .status = 0x706 ∧
    ((State.resetOf p o).fail .rowRange).regValue .status = 0x806

/-- R153: CONVERT and PACK_ROW report the first failing check of BAD_FORMAT, BAD_COLORSPACE, CS_MISMATCH, ZERO_DIM,
IN_CAPACITY, OUT_CAPACITY; PACK_ROW after them ROW_RANGE. -/
def Obligations.ConversionReportsFirstFailingCheck : Prop :=
  ∀ (s : State) (i : Instr), i = .convert ∨ i = .packRow →
    (9 < s.cfg.format.toNat → exec i s = .next (s.fail .badFormat)) ∧
    (∀ f, DataFormat.ofId s.cfg.format = some f →
      (3 < s.cfg.srcCs.toNat ∨ 3 < s.cfg.dstCs.toNat → exec i s = .next (s.fail .badColorspace)) ∧
      (s.cfg.srcCs.toNat ≤ 3 → s.cfg.dstCs.toNat ≤ 3 →
        (¬(s.cfg.srcCs = 0 ↔ s.cfg.dstCs = 0) → exec i s = .next (s.fail .csMismatch)) ∧
        ((s.cfg.srcCs = 0 ↔ s.cfg.dstCs = 0) →
          (s.width = 0 ∨ s.height = 0 → exec i s = .next (s.fail .zeroDim)) ∧
          (s.width ≠ 0 → s.height ≠ 0 →
            (s.inst.inCapacity < s.width.toNat * s.height.toNat → exec i s = .next (s.fail .inCapacity)) ∧
            (s.width.toNat * s.height.toNat ≤ s.inst.inCapacity →
              (s.inst.outCapacity < f.imageSize s.cfg.hdrEn s.width.toNat s.height.toNat →
                exec i s = .next (s.fail .outCapacity)) ∧
              (f.imageSize s.cfg.hdrEn s.width.toNat s.height.toNat ≤ s.inst.outCapacity →
                i = .packRow → s.height.toNat ≤ s.row.toNat → exec i s = .next (s.fail .rowRange)))))))

/-- R153: ENCODE_HEADER checks BAD_FORMAT, BAD_COLORSPACE of DST_CS alone, ZERO_DIM; TRANSFORM checks BAD_COLORSPACE,
CS_MISMATCH; ENCODE_PIXEL checks BAD_FORMAT; the first failing one is reported. -/
def Obligations.SingleUnitCommandsReportFirstFailingCheck : Prop :=
  ∀ s : State,
    (9 < s.cfg.format.toNat → exec .encodeHeader s = .next (s.fail .badFormat) ∧
      exec .encodePixel s = .next (s.fail .badFormat)) ∧
    (s.cfg.format.toNat ≤ 9 → 3 < s.cfg.dstCs.toNat → exec .encodeHeader s = .next (s.fail .badColorspace)) ∧
    (s.cfg.format.toNat ≤ 9 → s.cfg.dstCs.toNat ≤ 3 → s.width = 0 ∨ s.height = 0 →
      exec .encodeHeader s = .next (s.fail .zeroDim)) ∧
    (3 < s.cfg.srcCs.toNat ∨ 3 < s.cfg.dstCs.toNat → exec .transform s = .next (s.fail .badColorspace)) ∧
    (s.cfg.srcCs.toNat ≤ 3 → s.cfg.dstCs.toNat ≤ 3 → ¬(s.cfg.srcCs = 0 ↔ s.cfg.dstCs = 0) →
      exec .transform s = .next (s.fail .csMismatch))

/-- R170: on every instance the reset configuration is R32F, NonColor to NonColor, no header, and a CONVERT right after
reset fails with ZERO_DIM. -/
def Obligations.ConvertAfterResetReportsZeroDim : Prop :=
  ∀ (p : Instance) (o : Outside),
    DataFormat.ofId (State.resetOf p o).cfg.format = some .r32f ∧
    ColorSpace.ofId (State.resetOf p o).cfg.srcCs = some .nonColor ∧
    ColorSpace.ofId (State.resetOf p o).cfg.dstCs = some .nonColor ∧ (State.resetOf p o).cfg.hdrEn = false ∧
    exec .convert (State.resetOf p o) = .next ((State.resetOf p o).fail .zeroDim)

/-! ### The commands' results -/

/-- R140: NOP is the word 0; it completes with no effect but STATUS, whatever CFG holds, and raises IRQ when CFG.IRQ_EN
= 1. -/
def Obligations.NopOnlyCompletes : Prop :=
  encode .nop = 0x0000000000000000 ∧ ∀ s : State, ∃ t : State, exec .nop s = .next t ∧
    t = { s with status := { s.status with busy := false, done := true } } ∧ (s.cfg.irqEn = true → t.irq = true)

/-- R89 to R91: with equal spaces the transform is the identity, bit for bit, so that TRANSFORM copies SIN to SOUT, and
only SOUT and STATUS change (R98; R88 likewise). -/
def Obligations.TransformCopiesOnEqualSpaces : Prop :=
  (∀ (p : Instance) (x : Sample),
    ct p .nonColor x = x ∧ ct p .xyzToXyz x = x ∧ ct p .srgbToSrgb x = x ∧ ct p .linearToLinear x = x) ∧
  ∀ s : State, s.cfg.srcCs.toNat ≤ 3 → s.cfg.dstCs = s.cfg.srcCs →
    exec .transform s = .next { s with sout := s.sin, status := { s.status with busy := false, done := true } }

/-- R92, R93, R98: between SRGB and LinearSRGB, TRANSFORM applies the transfer function to each colour lane,
canonicalises NaN, and copies lane A. -/
def Obligations.TransformAppliesTransferFunction : Prop :=
  ∀ s : State,
    (s.cfg.srcCs = 2 → s.cfg.dstCs = 3 → exec .transform s = .next
      { s with
        sout := ⟨canon (tfDec s.inst s.sin.r), canon (tfDec s.inst s.sin.g), canon (tfDec s.inst s.sin.b), s.sin.a⟩
        status := { s.status with busy := false, done := true } }) ∧
    (s.cfg.srcCs = 3 → s.cfg.dstCs = 2 → exec .transform s = .next
      { s with
        sout := ⟨canon (tfEnc s.inst s.sin.r), canon (tfEnc s.inst s.sin.g), canon (tfEnc s.inst s.sin.b), s.sin.a⟩
        status := { s.status with busy := false, done := true } })

/-- R86, R94 to R98: the four pairs with CIEXYZ. Every row of the matrix is evaluated as `((m0·c0 + m1·c1) + m2·c2)`. -/
def Obligations.TransformAppliesMatrix : Prop :=
  ∀ s : State, ∀ dot : MatrixRow → Word → Word → Word → Word,
    (∀ m c0 c1 c2, dot m c0 c1 c2 = F64.add (F64.add (F64.mul m.c0 c0) (F64.mul m.c1 c1)) (F64.mul m.c2 c2)) →
    (s.cfg.srcCs = 3 → s.cfg.dstCs = 1 → exec .transform s = .next
      { s with
        sout :=
          ⟨canon (dot s.inst.matFwd.row0 s.sin.r s.sin.g s.sin.b), canon (dot s.inst.matFwd.row1 s.sin.r s.sin.g s.sin.b),
            canon (dot s.inst.matFwd.row2 s.sin.r s.sin.g s.sin.b), s.sin.a⟩
        status := { s.status with busy := false, done := true } }) ∧
    (s.cfg.srcCs = 1 → s.cfg.dstCs = 3 → exec .transform s = .next
      { s with
        sout :=
          ⟨canon (dot s.inst.matInv.row0 s.sin.r s.sin.g s.sin.b), canon (dot s.inst.matInv.row1 s.sin.r s.sin.g s.sin.b),
            canon (dot s.inst.matInv.row2 s.sin.r s.sin.g s.sin.b), s.sin.a⟩
        status := { s.status with busy := false, done := true } }) ∧
    (s.cfg.srcCs = 2 → s.cfg.dstCs = 1 → ∀ r g b, r = tfDec s.inst s.sin.r → g = tfDec s.inst s.sin.g →
      b = tfDec s.inst s.sin.b → exec .transform s = .next
        { s with
          sout :=
            ⟨canon (dot s.inst.matFwd.row0 r g b), canon (dot s.inst.matFwd.row1 r g b),
              canon (dot s.inst.matFwd.row2 r g b), s.sin.a⟩
          status := { s.status with busy := false, done := true } }) ∧
    (s.cfg.srcCs = 1 → s.cfg.dstCs = 2 → exec .transform s = .next
      { s with
        sout :=
          ⟨canon (tfEnc s.inst (dot s.inst.matInv.row0 s.sin.r s.sin.g s.sin.b)),
            canon (tfEnc s.inst (dot s.inst.matInv.row1 s.sin.r s.sin.g s.sin.b)),
            canon (tfEnc s.inst (dot s.inst.matInv.row2 s.sin.r s.sin.g s.sin.b)), s.sin.a⟩
        status := { s.status with busy := false, done := true } })

/-- R78, R87: TRANSFORM writes the colour transform of SIN, keeps lane A bit for bit, and where the spaces differ a NaN
in a colour lane of SOUT is the canonical quiet NaN; the canonicalisation replaces every NaN and keeps every other
value. -/
def Obligations.TransformKeepsAlphaAndCanonicalisesNaN : Prop :=
  (∀ v : Word, (F64.isNaN v = true → canon v = 0x7FF8000000000000) ∧ (F64.isNaN v = false → canon v = v)) ∧
  ∀ s : State, s.cfg.srcCs.toNat ≤ 3 → s.cfg.dstCs.toNat ≤ 3 → (s.cfg.srcCs = 0 ↔ s.cfg.dstCs = 0) →
    ∃ t : State, exec .transform s = .next t ∧ t.sout.a = s.sin.a ∧
      (s.cfg.srcCs ≠ s.cfg.dstCs → ∀ v : Word, v = t.sout.r ∨ v = t.sout.g ∨ v = t.sout.b →
        F64.isNaN v = true → v = 0x7FF8000000000000) ∧
      ∀ (src dst : ColorSpace) (p : ColorPair), ColorSpace.ofId s.cfg.srcCs = some src →
        ColorSpace.ofId s.cfg.dstCs = some dst → ColorPair.of src dst = some p → t.sout = ct s.inst p s.sin

/-- R83, R84: the two segments of each transfer function, for all constants, and their corner cases with the default
constants and any power unit (the constants are the spec's general-knowledge defaults, log entry 5). -/
def Obligations.TransferFunctionSegmentsAndCorners : Prop :=
  ∀ p : Instance,
    (∀ v : Word,
      (F64.le v p.tf.k0 = true → tfDec p v = F64.div v p.tf.phi) ∧
      (F64.le v p.tf.k0 = false → tfDec p v = pow64 p.pow (F64.div (F64.add v p.tf.a) p.tf.a1) p.tf.g) ∧
      (F64.le v p.tf.l0 = true → tfEnc p v = F64.mul p.tf.phi v) ∧
      (F64.le v p.tf.l0 = false → tfEnc p v = F64.sub (F64.mul p.tf.a1 (pow64 p.pow v p.tf.gi)) p.tf.a)) ∧
    (p.tf = defaultTransfer →
      (p.tf.k0 = 0x3FA4B5DCC63F1412 ∧ p.tf.phi = 0x4029D70A3D70A3D7 ∧ p.tf.a = 0x3FAC28F5C28F5C29 ∧
        p.tf.a1 = 0x3FF0E147AE147AE1 ∧ p.tf.g = 0x4003333333333333 ∧ p.tf.l0 = 0x3F69A5C37387B719 ∧
        p.tf.gi = 0x3FDAAAAAAAAAAAAB) ∧
      (tfDec p 0x0000000000000000 = 0x0000000000000000 ∧ tfDec p 0x8000000000000000 = 0x8000000000000000 ∧
        tfDec p 0x7FF0000000000000 = 0x7FF0000000000000 ∧ tfDec p 0xFFF0000000000000 = 0xFFF0000000000000 ∧
        ∀ v, F64.isNaN v = true → F64.isNaN (tfDec p v) = true) ∧
      (tfEnc p 0x0000000000000000 = 0x0000000000000000 ∧ tfEnc p 0x8000000000000000 = 0x8000000000000000 ∧
        tfEnc p 0x7FF0000000000000 = 0x7FF0000000000000 ∧ tfEnc p 0xFFF0000000000000 = 0xFFF0000000000000 ∧
        ∀ v, F64.isNaN v = true → F64.isNaN (tfEnc p v) = true))

/-- R82: every power unit of the model meets the assumptions (a), (b) and (c). That they are imposed on every unit, and
(c) for every exponent where R82 speaks of G and GI alone, is the model's choice (log entry 6). -/
def Obligations.PowerUnitMeetsItsAssumptions : Prop :=
  ∀ (u : PowUnit) (x y : Word),
    (F64.isNaN x = true → F64.isNaN (pow64 u x y) = true) ∧
    (F64.lt 0x0000000000000000 y = true → pow64 u 0x7FF0000000000000 y = 0x7FF0000000000000) ∧
    (F64.isFinite x = true → F64.lt 0x0000000000000000 x = true →
      F64.isNaN (pow64 u x y) = false ∧ F64.le 0x0000000000000000 (pow64 u x y) = true ∧
      (u = .correctlyRounded → F64.isFinite y = true → F64.sign (pow64 u x y) = false))

/-- R121, R32: ENCODE_PIXEL puts the encoded bytes of SIN in QOUT1 and QOUT0, zeros past them, BPP in QLEN, and adds the
clamp events to CLAMP_COUNT; nothing else changes but STATUS. -/
def Obligations.EncodePixelFillsResultRegisters : Prop :=
  ∀ (s : State) (f : DataFormat), DataFormat.ofId s.cfg.format = some f →
    ∃ t : State, exec .encodePixel s = .next t ∧
      (∀ k, k < 16 → (t.qout1 ++ t.qout0).extractLsb' (8 * k) 8 = ((pe f s.sin).bytes[k]?).getD 0) ∧
      t.status.qlen.toNat = f.bpp ∧
      (s.inst.hasClampCounter = true →
        t.clampCount.toNat = min (s.clampCount.toNat + (pe f s.sin).events) (2 ^ 64 - 1)) ∧
      (s.inst.hasClampCounter = false → t.clampCount = s.clampCount) ∧
      t = { s with
            qout0 := t.qout0, qout1 := t.qout1, clampCount := t.clampCount
            status := { s.status with busy := false, done := true, qlen := t.status.qlen } }

/-- R67, R69, R134, R135, R137: the ids of formats and colour spaces; the header's bytes; ENCODE_HEADER writes the 16
bytes of header layout version 1, with FORMAT and the target colour space, whatever SRC_CS and HDR_EN are; OUT from 16
up, and everything but STATUS, is unchanged. -/
def Obligations.EncodeHeaderWritesSixteenBytes : Prop :=
  ([DataFormat.ofId 0, DataFormat.ofId 1, DataFormat.ofId 2, DataFormat.ofId 3, DataFormat.ofId 4] =
      [some .r32f, some .rg32f, some .rgba32f, some .r16f, some .packedR16f] ∧
    [DataFormat.ofId 5, DataFormat.ofId 6, DataFormat.ofId 7, DataFormat.ofId 8, DataFormat.ofId 9] =
      [some .rg16f, some .rgba16f, some .r8, some .packedR8, some .rgbe8] ∧
    [ColorSpace.ofId 0, ColorSpace.ofId 1, ColorSpace.ofId 2, ColorSpace.ofId 3] =
      [some .nonColor, some .ciexyz, some .srgb, some .linearSrgb] ∧
    ∀ id : BitVec 4, (9 < id.toNat → DataFormat.ofId id = none) ∧ (3 < id.toNat → ColorSpace.ofId id = none)) ∧
  (∀ (w h : BitVec 32) (f : DataFormat) (c : ColorSpace), headerBytes w.toNat h.toNat f c =
    [w.extractLsb' 0 8, w.extractLsb' 8 8, w.extractLsb' 16 8, w.extractLsb' 24 8,
      h.extractLsb' 0 8, h.extractLsb' 8 8, h.extractLsb' 16 8, h.extractLsb' 24 8,
      BitVec.ofNat 8 f.id, 0x00, BitVec.ofNat 8 c.id, 0x00, 0x00, 0x00, 0x00, 0x00] ∧
    DataFormat.ofId (BitVec.ofNat 4 f.id) = some f ∧ f.id ≤ 9 ∧
    ColorSpace.ofId (BitVec.ofNat 4 c.id) = some c ∧ c.id ≤ 3) ∧
  ∀ (s : State) (f : DataFormat) (c : ColorSpace), DataFormat.ofId s.cfg.format = some f →
    ColorSpace.ofId s.cfg.dstCs = some c → s.width ≠ 0 → s.height ≠ 0 →
    ∃ t : State, exec .encodeHeader s = .next t ∧
      (∀ k, k < 4 → t.readOut k = some (s.width.extractLsb' (8 * k) 8)) ∧
      (∀ k, k < 4 → t.readOut (4 + k) = some (s.height.extractLsb' (8 * k) 8)) ∧
      t.readOut 8 = some (s.cfg.format.setWidth 8) ∧ t.readOut 9 = some 0x00 ∧
      t.readOut 10 = some (s.cfg.dstCs.setWidth 8) ∧ (∀ k, 11 ≤ k → k ≤ 15 → t.readOut k = some 0x00) ∧
      (∀ a, 16 ≤ a → t.readOut a = s.readOut a) ∧
      t = { s with outMem := t.outMem, status := { s.status with busy := false, done := true } }

/-- R128, R129, R131: PACK_ROW writes row ROW at its place, each pixel's encoding left to right and zero padding, adds
the row's clamp events to CLAMP_COUNT, and leaves every other byte of OUT and everything else but STATUS unchanged. -/
def Obligations.PackRowWritesItsRow : Prop :=
  ∀ (s : State) (j : Job), s.Convertible j → s.row.toNat < s.height.toNat →
    s.samplesWritten (s.row.toNat * s.width.toNat) s.width.toNat →
    ∃ t : State, exec .packRow s = .next t ∧
      (∀ x smp k, x < s.width.toNat → s.readSample (s.row.toNat * s.width.toNat + x) = some smp → k < j.fmt.bpp →
        t.readOut (s.rowAddr j s.row.toNat + x * j.fmt.bpp + k) = (pe j.fmt (ct s.inst j.pair smp)).bytes[k]?) ∧
      (∀ k, k < j.fmt.pad s.width.toNat →
        t.readOut (s.rowAddr j s.row.toNat + j.fmt.rowBytes s.width.toNat + k) = some 0x00) ∧
      (∀ a, a < s.rowAddr j s.row.toNat ∨ s.rowAddr j s.row.toNat + j.fmt.stride s.width.toNat ≤ a →
        t.readOut a = s.readOut a) ∧
      (s.inst.hasClampCounter = true → t.clampCount.toNat =
        min (s.clampCount.toNat + s.eventsOf j (s.row.toNat * s.width.toNat) s.width.toNat) (2 ^ 64 - 1)) ∧
      (s.inst.hasClampCounter = false → t.clampCount = s.clampCount) ∧
      t = { s with
            outMem := t.outMem, clampCount := t.clampCount
            status := { s.status with busy := false, done := true } }

/-- R56, R74, R128, R129, R141, R142: row `y` starts at `H + y × stride` and the image ends after its last row; CONVERT
writes the header, with the target space, when HDR_EN = 1 and every row at its place, adds the image's clamp events to
CLAMP_COUNT, and leaves OUT past the image's size and everything else but STATUS unchanged. -/
def Obligations.ConvertWritesTheImage : Prop :=
  ∀ (s : State) (j : Job), s.Convertible j → s.samplesWritten 0 (s.width.toNat * s.height.toNat) →
    (∀ y, s.rowAddr j y = (if s.cfg.hdrEn then 16 else 0) + y * j.fmt.stride s.width.toNat) ∧
    j.fmt.imageSize s.cfg.hdrEn s.width.toNat s.height.toNat =
      (if s.cfg.hdrEn then 16 else 0) + s.height.toNat * j.fmt.stride s.width.toNat ∧
    ColorSpace.ofId s.cfg.dstCs = some j.pair.target ∧
    ∃ t : State, exec .convert s = .next t ∧
      (s.cfg.hdrEn = true → ∀ k, k < 16 →
        t.readOut k = (headerBytes s.width.toNat s.height.toNat j.fmt j.pair.target)[k]?) ∧
      (∀ y x smp k, y < s.height.toNat → x < s.width.toNat → s.readSample (y * s.width.toNat + x) = some smp →
        k < j.fmt.bpp →
        t.readOut (s.rowAddr j y + x * j.fmt.bpp + k) = (pe j.fmt (ct s.inst j.pair smp)).bytes[k]?) ∧
      (∀ y k, y < s.height.toNat → k < j.fmt.pad s.width.toNat →
        t.readOut (s.rowAddr j y + j.fmt.rowBytes s.width.toNat + k) = some 0x00) ∧
      (∀ a, j.fmt.imageSize s.cfg.hdrEn s.width.toNat s.height.toNat ≤ a → t.readOut a = s.readOut a) ∧
      (s.inst.hasClampCounter = true → t.clampCount.toNat =
        min (s.clampCount.toNat + s.eventsOf j 0 (s.width.toNat * s.height.toNat)) (2 ^ 64 - 1)) ∧
      (s.inst.hasClampCounter = false → t.clampCount = s.clampCount) ∧
      t = { s with
            outMem := t.outMem, clampCount := t.clampCount
            status := { s.status with busy := false, done := true } }

/-- R131: after ENCODE_HEADER when HDR_EN = 1, a PACK_ROW of every row, in any order, leaves OUT as CONVERT does. -/
def Obligations.RowsPackedInAnyOrderEqualConvert : Prop :=
  ∀ (s s0 t : State) (j : Job) (ys : List (BitVec 32)), s.Convertible j → exec .convert s = .next t →
    (s.cfg.hdrEn = true → exec .encodeHeader s = .next s0) → (s.cfg.hdrEn = false → s0 = s) →
    (∀ y ∈ ys, y.toNat < s.height.toNat) → (∀ n, n < s.height.toNat → ∃ y ∈ ys, y.toNat = n) →
    ∃ u : State, packRows ys s0 = some u ∧ ∀ a, u.readOut a = t.readOut a

/-- R144, R145: the bytes CONVERT writes, and the clamp events it counts, depend only on the parameters, FORMAT, SRC_CS,
DST_CS, HDR_EN, WIDTH, HEIGHT and the image's samples. -/
def Obligations.ConvertIsStateless : Prop :=
  ∀ (s s' t : State) (j : Job), s.Convertible j → exec .convert s = .next t →
    s'.inst = s.inst → s'.cfg.format = s.cfg.format → s'.cfg.srcCs = s.cfg.srcCs → s'.cfg.dstCs = s.cfg.dstCs →
    s'.cfg.hdrEn = s.cfg.hdrEn → s'.width = s.width → s'.height = s.height →
    (∀ i, i < s.width.toNat * s.height.toNat → s'.readSample i = s.readSample i) →
    ∃ t' : State, exec .convert s' = .next t' ∧
      (∀ a, a < j.fmt.imageSize s.cfg.hdrEn s.width.toNat s.height.toNat → t'.readOut a = t.readOut a) ∧
      (s.inst.hasClampCounter = true → ∃ n : Nat,
        t.clampCount.toNat = min (s.clampCount.toNat + n) (2 ^ 64 - 1) ∧
        t'.clampCount.toNat = min (s'.clampCount.toNat + n) (2 ^ 64 - 1)) ∧
      (s.inst.hasClampCounter = false → t.clampCount = s.clampCount ∧ t'.clampCount = s'.clampCount)

/-- R130, R160: CONVERT of an image with an unwritten sample, and PACK_ROW of a row with one, meet UNWRITTEN_IN. -/
def Obligations.UnwrittenSampleFaults : Prop :=
  ∀ (s : State) (j : Job), s.Convertible j →
    (¬s.samplesWritten 0 (s.width.toNat * s.height.toNat) → exec .convert s = .fault .unwrittenIn) ∧
    (s.row.toNat < s.height.toNat → ¬s.samplesWritten (s.row.toNat * s.width.toNat) s.width.toNat →
      exec .packRow s = .fault .unwrittenIn)

/-- R16, R70: what each command may write. Configuration, SIN, IN, the parameters and all that lies outside the block are
never written; SOUT only by TRANSFORM; QOUT and QLEN only by ENCODE_PIXEL; OUT only by CONVERT, ENCODE_HEADER and
PACK_ROW; CLAMP_COUNT only by CONVERT, PACK_ROW and ENCODE_PIXEL. -/
def Obligations.EngineWritesOnlyItsResults : Prop :=
  ∀ (i : Instr) (s t : State), exec i s = .next t →
    (t.inst = s.inst ∧ t.cfg = s.cfg ∧ t.width = s.width ∧ t.height = s.height ∧ t.row = s.row ∧ t.sin = s.sin ∧
      t.curOp = s.curOp ∧ t.inMem = s.inMem ∧ t.faultMark = s.faultMark ∧ t.outside = s.outside ∧
      t.status.ovr = s.status.ovr) ∧
    (i ≠ .transform → t.sout = s.sout) ∧
    (i ≠ .encodePixel → t.qout0 = s.qout0 ∧ t.qout1 = s.qout1 ∧ t.status.qlen = s.status.qlen) ∧
    (i ≠ .convert → i ≠ .encodeHeader → i ≠ .packRow → ∀ a, t.readOut a = s.readOut a) ∧
    (i ≠ .convert → i ≠ .packRow → i ≠ .encodePixel → t.clampCount = s.clampCount)

/-! ### Floating point and the quantizer -/

/-- R12, R80, R104, R105: `roundMag` is to nearest with ties to even, in any format of at least one fraction bit: no
magnitude pattern is nearer to `n / d` units than the one chosen, and one as near is chosen only if the chosen one's
significand is even. The binary64 sum, difference, product and quotient of finite values, and the narrowing to binary32
and binary16, are the exact result rounded so, once, with its sign; past the largest finite value stands the infinity.
An exact zero sum is −0.0 only where both terms are. On NaN and infinite operands, on a division by zero, and in
comparisons the operations are IEEE 754's (R86 relies on these cases). -/
def Obligations.ArithmeticFollowsIeee754 : Prop :=
  (∀ frac n d m : Nat, 0 < frac → 0 < d →
    ((n : Int) - d * unitsOf frac (roundMag frac n d)).natAbs ≤ ((n : Int) - d * unitsOf frac m).natAbs ∧
    (((n : Int) - d * unitsOf frac (roundMag frac n d)).natAbs = ((n : Int) - d * unitsOf frac m).natAbs →
      m = roundMag frac n d ∨ roundMag frac n d % 2 = 0)) ∧
  (∀ a b : Word, F64.isFinite a = true → F64.isFinite b = true →
    (∀ (r : Word) (t : Int) (zeroSign : Bool),
      (r = F64.add a b ∧ t = F64.signedUnits a + F64.signedUnits b ∧ zeroSign = (F64.sign a && F64.sign b)) ∨
        (r = F64.sub a b ∧ t = F64.signedUnits a - F64.signedUnits b ∧ zeroSign = (F64.sign a && !F64.sign b)) →
      F64.mag r = min (roundMag 52 t.natAbs 1) 0x7FF0000000000000 ∧
      F64.sign r = if t = 0 then zeroSign else decide (t < 0)) ∧
    (F64.mag (F64.mul a b) = min (roundMag 52 (F64.units a * F64.units b) (2 ^ 1074)) 0x7FF0000000000000 ∧
      F64.sign (F64.mul a b) = (F64.sign a != F64.sign b)) ∧
    (F64.isZero b = false →
      F64.mag (F64.div a b) = min (roundMag 52 (F64.units a * 2 ^ 1074) (F64.units b)) 0x7FF0000000000000 ∧
      F64.sign (F64.div a b) = (F64.sign a != F64.sign b))) ∧
  (∀ v : Word,
    (F64.le 0xC7EFFFFFE0000000 v = true → F64.le v 0x47EFFFFFE0000000 = true →
      (rnd32 v).toNat % 2 ^ 31 = roundMag 23 (F64.units v) (2 ^ (1074 - 149)) ∧ (rnd32 v).getLsbD 31 = F64.sign v) ∧
    (F64.le 0xC0EFFC0000000000 v = true → F64.le v 0x40EFFC0000000000 = true →
      (rnd16 v).toNat % 2 ^ 15 = roundMag 10 (F64.units v) (2 ^ (1074 - 24)) ∧ (rnd16 v).getLsbD 15 = F64.sign v)) ∧
  (∀ a b : Word, F64.isNaN a = true ∨ F64.isNaN b = true →
    F64.isNaN (F64.add a b) = true ∧ F64.isNaN (F64.sub a b) = true ∧ F64.isNaN (F64.mul a b) = true ∧
    F64.isNaN (F64.div a b) = true ∧ F64.lt a b = false ∧ F64.le a b = false ∧ F64.eq a b = false) ∧
  (∀ a b : Word, F64.isInf a = true → F64.isInf b = true →
    (F64.sign a = F64.sign b → F64.add a b = a ∧ F64.isNaN (F64.sub a b) = true) ∧
    (F64.sign a ≠ F64.sign b → F64.isNaN (F64.add a b) = true ∧ F64.sub a b = a) ∧
    F64.isInf (F64.mul a b) = true ∧ F64.sign (F64.mul a b) = (F64.sign a != F64.sign b) ∧
    F64.isNaN (F64.div a b) = true ∧ F64.lt a b = (F64.sign a && !F64.sign b) ∧
    F64.le a b = (F64.sign a || !F64.sign b) ∧ F64.eq a b = (F64.sign a == F64.sign b)) ∧
  (∀ a b : Word, F64.isInf a = true → F64.isFinite b = true →
    F64.add a b = a ∧ F64.add b a = a ∧ F64.sub a b = a ∧
    F64.isInf (F64.sub b a) = true ∧ F64.sign (F64.sub b a) = !F64.sign a ∧
    (∀ r : Word, r = F64.mul a b ∨ r = F64.mul b a →
      (F64.isZero b = true → F64.isNaN r = true) ∧
      (F64.isZero b = false → F64.isInf r = true ∧ F64.sign r = (F64.sign a != F64.sign b))) ∧
    F64.isInf (F64.div a b) = true ∧ F64.sign (F64.div a b) = (F64.sign a != F64.sign b) ∧
    F64.isZero (F64.div b a) = true ∧ F64.sign (F64.div b a) = (F64.sign a != F64.sign b) ∧
    F64.lt a b = F64.sign a ∧ F64.le a b = F64.sign a ∧ F64.lt b a = !F64.sign a ∧ F64.le b a = !F64.sign a ∧
    F64.eq a b = false ∧ F64.eq b a = false) ∧
  (∀ a b : Word, F64.isFinite a = true → F64.isZero b = true →
    (F64.isZero a = true → F64.isNaN (F64.div a b) = true) ∧
    (F64.isZero a = false → F64.isInf (F64.div a b) = true ∧ F64.sign (F64.div a b) = (F64.sign a != F64.sign b))) ∧
  (∀ a b : Word, F64.isFinite a = true → F64.isFinite b = true →
    F64.lt a b = decide (F64.signedUnits a < F64.signedUnits b) ∧
    F64.le a b = decide (F64.signedUnits a ≤ F64.signedUnits b) ∧
    F64.eq a b = decide (F64.signedUnits a = F64.signedUnits b))

/-- R47, R72: what a binary64 pattern stands for, in units of 2^-1074; a binary32 lane is widened exactly: the sign is
kept, a finite value keeps its value, an infinity stays one, and a NaN becomes a NaN. -/
def Obligations.FloatPatternsAndExactWidening : Prop :=
  (∀ (v : Word) (e f : Nat), e = (v.extractLsb' 52 11).toNat → f = (v.extractLsb' 0 52).toNat →
    F64.sign v = v.getLsbD 63 ∧ F64.isNaN v = decide (e = 0x7FF ∧ f ≠ 0) ∧ F64.isInf v = decide (e = 0x7FF ∧ f = 0) ∧
    F64.isFinite v = decide (e ≠ 0x7FF) ∧ F64.isZero v = decide (e = 0 ∧ f = 0) ∧
    F64.units v = (if e = 0 then f else (2 ^ 52 + f) * 2 ^ (e - 1)) ∧
    F64.signedUnits v = if F64.sign v then -(F64.units v : Int) else F64.units v) ∧
  ∀ b : BitVec 32,
    (b.toNat % 2 ^ 31 < 0x7F800000 → F64.isFinite (widen32 b) = true ∧ F64.sign (widen32 b) = b.getLsbD 31 ∧
      F64.units (widen32 b) = unitsOf 23 (b.toNat % 2 ^ 31) * 2 ^ (1074 - 149)) ∧
    (b.toNat % 2 ^ 31 = 0x7F800000 → F64.isInf (widen32 b) = true ∧ F64.sign (widen32 b) = b.getLsbD 31) ∧
    (0x7F800000 < b.toNat % 2 ^ 31 → F64.isNaN (widen32 b) = true)

/-- R147: a finite binary32 lane that is converted without a colour transform to float32 is written as its own four
bytes, with no clamp event. -/
def Obligations.Binary32LaneSurvivesFloat32Quantizer : Prop :=
  ∀ b : BitVec 32, b.toNat % 2 ^ 31 < 0x7F800000 → qF32 (widen32 b) = ⟨bytesLE 4 b.toNat, 0⟩

/-- R102 to R105: the clamps of the two float kinds, their events, and their little-endian bytes. -/
def Obligations.FloatQuantizersClamp : Prop :=
  (∀ n v k : Nat, k < n → (bytesLE n v)[k]? = some (BitVec.ofNat 8 (v / 256 ^ k))) ∧
  ∀ v : Word,
    (F64.isNaN v = true → qF32 v = ⟨[0x00, 0x00, 0x00, 0x00], 1⟩ ∧ qF16 v = ⟨[0x00, 0x00], 1⟩) ∧
    (F64.lt 0x47EFFFFFE0000000 v = true → qF32 v = ⟨[0xFF, 0xFF, 0x7F, 0x7F], 1⟩) ∧
    (F64.lt v 0xC7EFFFFFE0000000 = true → qF32 v = ⟨[0xFF, 0xFF, 0x7F, 0xFF], 1⟩) ∧
    (F64.le 0xC7EFFFFFE0000000 v = true → F64.le v 0x47EFFFFFE0000000 = true →
      qF32 v = ⟨bytesLE 4 (rnd32 v).toNat, 0⟩) ∧
    (F64.lt 0x40EFFC0000000000 v = true → qF16 v = ⟨[0xFF, 0x7B], 1⟩) ∧
    (F64.lt v 0xC0EFFC0000000000 = true → qF16 v = ⟨[0xFF, 0xFB], 1⟩) ∧
    (F64.le 0xC0EFFC0000000000 v = true → F64.le v 0x40EFFC0000000000 = true →
      qF16 v = ⟨bytesLE 2 (rnd16 v).toNat, 0⟩)

/-- R123: every float32 output of `PE` is a finite binary32 pattern and every float16 output a finite binary16 pattern.
-/
def Obligations.FloatOutputsAreFinite : Prop :=
  ∀ (f : DataFormat) (t : Sample) (c : Nat), c < f.channels →
    (f.kind = .float32 → ofBytesLE (((pe f t).bytes.drop (4 * c)).take 4) / 2 ^ 23 % 2 ^ 8 ≠ 0xFF) ∧
    (f.kind = .float16 → ofBytesLE (((pe f t).bytes.drop (2 * c)).take 2) / 2 ^ 10 % 2 ^ 5 ≠ 0x1F)

/-- R122: the clamping boundary of R8 and PackedR8, and the RGBE zero law. -/
def Obligations.ClampingBoundaryLaw : Prop :=
  ∀ (f : DataFormat) (t : Sample), f = .r8 ∨ f = .packedR8 →
    (F64.eq t.r 0x0000000000000000 = true → (pe f t).bytes = [0x00]) ∧
    (t.r = 0x3FF0000000000000 → (pe f t).bytes = [0xFF]) ∧
    (F64.lt 0x3FF0000000000000 t.r = true → (pe f t).bytes = [0xFF]) ∧
    (F64.lt t.r 0x0000000000000000 = true → (pe f t).bytes = [0x00]) ∧
    (F64.eq t.r 0 = true → F64.eq t.g 0 = true → F64.eq t.b 0 = true →
      (pe .rgbe8 t).bytes = [0x00, 0x00, 0x00, 0x00])

/-- R102, R106: a NaN is encoded as 0, with one event; a value in [0, 1] is encoded, with no event, as the integer
nearest to its binary64 product with 255, a tie going up. -/
def Obligations.FixedPointRoundsHalfUp : Prop :=
  (∀ v : Word, F64.isNaN v = true → qFx8 v = ⟨[0x00], 1⟩) ∧
  ∀ v : Word, F64.le 0x0000000000000000 v = true → F64.le v 0x3FF0000000000000 = true →
    ∃ n : Nat, n ≤ 255 ∧ qFx8 v = ⟨[BitVec.ofNat 8 n], 0⟩ ∧
      2 * n * 2 ^ 1074 ≤ 2 * F64.units (F64.mul v 0x406FE00000000000) + 2 ^ 1074 ∧
      2 * F64.units (F64.mul v 0x406FE00000000000) + 2 ^ 1074 < 2 * (n + 1) * 2 ^ 1074

/-- R107 to R109: the clamp of a channel to RGBE's range, and the encoding of three clamped channels, in units of
2^-1074: all zero when every channel is below 2^-128; otherwise the exponent byte `e` is in 1 to 255, the largest
mantissa is in 128 to 255, and each mantissa is its channel's `floor (c × 2^(8 − (e − 128)))`. -/
def Obligations.SharedExponentEncoding : Prop :=
  (∀ c : Word,
    (F64.isNaN c = true ∨ F64.lt c 0x0000000000000000 = true ∨ F64.eq c 0x0000000000000000 = true →
      (clampRgbe c).1 = 0x0000000000000000) ∧
    (F64.lt 0x47DFE00000000000 c = true → (clampRgbe c).1 = 0x47DFE00000000000) ∧
    (F64.lt 0x0000000000000000 c = true → F64.le c 0x47DFE00000000000 = true → (clampRgbe c).1 = c)) ∧
  ∀ (c0 c1 c2 : Word) (u0 u1 u2 : Nat), u0 = F64.units (clampRgbe c0).1 → u1 = F64.units (clampRgbe c1).1 →
    u2 = F64.units (clampRgbe c2).1 →
    (max (max u0 u1) u2 < 2 ^ 946 → (qRgbe c0 c1 c2).bytes = [0x00, 0x00, 0x00, 0x00]) ∧
    (2 ^ 946 ≤ max (max u0 u1) u2 → ∃ m0 m1 m2 e : Nat,
      (qRgbe c0 c1 c2).bytes = [BitVec.ofNat 8 m0, BitVec.ofNat 8 m1, BitVec.ofNat 8 m2, BitVec.ofNat 8 e] ∧
      1 ≤ e ∧ e ≤ 255 ∧ 128 ≤ max (max m0 m1) m2 ∧ max (max m0 m1) m2 ≤ 255 ∧
      m0 * 2 ^ (e + 946) ≤ u0 * 2 ^ 8 ∧ u0 * 2 ^ 8 < (m0 + 1) * 2 ^ (e + 946) ∧
      m1 * 2 ^ (e + 946) ≤ u1 * 2 ^ 8 ∧ u1 * 2 ^ 8 < (m1 + 1) * 2 ^ (e + 946) ∧
      m2 * 2 ^ (e + 946) ≤ u2 * 2 ^ 8 ∧ u2 * 2 ^ 8 < (m2 + 1) * 2 ^ (e + 946))

/-- R103: `PE` counts one clamp event for each channel it encodes that is a NaN or lies outside the kind's range, and
none for any other. -/
def Obligations.ClampEventsCountReplacedChannels : Prop :=
  ∀ (f : DataFormat) (t : Sample),
    (f.kind = .float32 → (pe f t).events = ([t.r, t.g, t.b, t.a].take f.channels).countP
      fun v => F64.isNaN v || F64.lt 0x47EFFFFFE0000000 v || F64.lt v 0xC7EFFFFFE0000000) ∧
    (f.kind = .float16 → (pe f t).events = ([t.r, t.g, t.b, t.a].take f.channels).countP
      fun v => F64.isNaN v || F64.lt 0x40EFFC0000000000 v || F64.lt v 0xC0EFFC0000000000) ∧
    (f.kind = .fixed8 → (pe f t).events = [t.r].countP
      fun v => F64.isNaN v || F64.lt v 0x0000000000000000 || F64.lt 0x3FF0000000000000 v) ∧
    (f.kind = .rgbe → (pe f t).events = [t.r, t.g, t.b].countP
      fun v => F64.isNaN v || F64.lt v 0x0000000000000000 || F64.lt 0x47DFE00000000000 v)

/-- R68, R73, R110 to R120: an encoded pixel is BPP bytes. In a per-channel format the bytes of channel `j` are the
kind's encoding of lane `j` (0 = R, 1 = G, 2 = B, 3 = A), lowest lane first; an RGBE8 pixel is the whole-pixel encoding
of lanes 0 to 2. -/
def Obligations.EncodedPixelLayout : Prop :=
  ∀ (f : DataFormat) (t : Sample),
    (pe f t).bytes.length = f.bpp ∧
    (∀ j : Fin 4, j.val < f.channels →
      (f.kind = .float32 → ((pe f t).bytes.drop (j.val * 4)).take 4 = (qF32 (t.lane j)).bytes) ∧
      (f.kind = .float16 → ((pe f t).bytes.drop (j.val * 2)).take 2 = (qF16 (t.lane j)).bytes) ∧
      (f.kind = .fixed8 → ((pe f t).bytes.drop j.val).take 1 = (qFx8 (t.lane j)).bytes)) ∧
    (f.kind = .rgbe → pe f t = qRgbe (t.lane 0) (t.lane 1) (t.lane 2)) ∧
    (t.lane 0 = t.r ∧ t.lane 1 = t.g ∧ t.lane 2 = t.b ∧ t.lane 3 = t.a)

/-! ### Geometry -/

/-- R68, R124 to R126: the metadata of each format, the bytes of a row, its padding and its stride. -/
def Obligations.FormatMetadataAndStride : Prop :=
  (∀ f : DataFormat, (f.kind, f.channels, f.byteWidth, f.bpp, f.packed) =
    match f with
    | .r32f => (.float32, 1, 4, 4, false)
    | .rg32f => (.float32, 2, 4, 8, false)
    | .rgba32f => (.float32, 4, 4, 16, false)
    | .r16f => (.float16, 1, 2, 2, false)
    | .packedR16f => (.float16, 1, 2, 2, true)
    | .rg16f => (.float16, 2, 2, 4, false)
    | .rgba16f => (.float16, 4, 2, 8, false)
    | .r8 => (.fixed8, 1, 1, 1, false)
    | .packedR8 => (.fixed8, 1, 1, 1, true)
    | .rgbe8 => (.rgbe, 4, 1, 4, false)) ∧
  (∀ (f : DataFormat) (w : Nat), f.rowBytes w = w * f.bpp ∧
    f.pad w = (if f.packed then 0 else (4 - f.rowBytes w % 4) % 4) ∧ f.stride w = f.rowBytes w + f.pad w) ∧
  ∀ w : Nat, 1 ≤ w →
    DataFormat.stride .r32f w = 4 * w ∧ DataFormat.stride .rg32f w = 8 * w ∧ DataFormat.stride .rgba32f w = 16 * w ∧
    DataFormat.stride .r16f w = 2 * w + 2 * (w % 2) ∧ DataFormat.stride .packedR16f w = 2 * w ∧
    DataFormat.stride .rg16f w = 4 * w ∧ DataFormat.stride .rgba16f w = 8 * w ∧
    DataFormat.stride .r8 w = 4 * ((w + 3) / 4) ∧ DataFormat.stride .packedR8 w = w ∧ DataFormat.stride .rgbe8 w = 4 * w

/-- R132, R133: a row of a non-packed format is a multiple of 4 bytes, and a packed row is never padded. -/
def Obligations.PaddingLaws : Prop :=
  ∀ (f : DataFormat) (w : Nat),
    (f.packed = false → 1 ≤ w → f.stride w % 4 = 0) ∧ (f.packed = true → f.stride w = f.rowBytes w)

/-- R28, R29: OUT_SIZE reads the image size, saturated, and ROW_STRIDE the stride, never saturated, whether BUSY is 0 or
1; both read 0 for an illegal format and ignore writes, and OUT_SIZE reads 0 after reset. -/
def Obligations.SizeRegistersReadTheGeometry : Prop :=
  ∀ (s : State) (v free : Word),
    (∀ f, DataFormat.ofId s.cfg.format = some f →
      (s.readReg free .outSize).toNat = min (f.imageSize s.cfg.hdrEn s.width.toNat s.height.toNat) (2 ^ 64 - 1) ∧
      (s.readReg free .rowStride).toNat = f.stride s.width.toNat ∧
      f.stride s.width.toNat ≤ 16 * (2 ^ 32 - 1) + 3) ∧
    (9 < s.cfg.format.toNat → s.readReg free .outSize = 0 ∧ s.readReg free .rowStride = 0) ∧
    s.writeReg .outSize v = s ∧ s.writeReg .rowStride v = s ∧
    ∀ (p : Instance) (o : Outside), (State.resetOf p o).readReg free .outSize = 0

/-! ### The register window -/

/-- R19: the layout of STATUS as it reads, and the effect of a host write of it, whether BUSY is 0 or 1. -/
def Obligations.StatusLayoutAndWriteOneToClear : Prop :=
  ∀ (s : State) (v : Word) (r : Word), r = s.regValue .status →
    (r.getLsbD 0 = s.status.busy ∧ r.getLsbD 1 = s.status.done ∧ r.getLsbD 2 = s.status.err ∧
      r.getLsbD 3 = s.status.ovr ∧ r.extractLsb' 4 4 = 0 ∧ r.extractLsb' 8 4 = s.status.errcode ∧
      r.extractLsb' 12 4 = 0 ∧ r.extractLsb' 16 5 = s.status.qlen ∧ r.extractLsb' 21 43 = 0) ∧
    s.writeReg .status v =
      { s with
        status :=
          { s.status with
            done := if v.getLsbD 1 then false else s.status.done
            err := if v.getLsbD 2 then false else s.status.err
            errcode := if v.getLsbD 2 then 0 else s.status.errcode
            ovr := if v.getLsbD 3 then false else s.status.ovr } }

/-- R21, R22, R25 to R27, R30, R71: while BUSY = 0 a write of a configuration register puts each field of the value where
the commands read it; the register reads back what was written, its reserved bits 0, and nothing else changes. -/
def Obligations.ConfigurationReadsBack : Prop :=
  ∀ (s : State) (v : Word), s.status.busy = false →
    ((s.writeReg .cfg v).cfg.format = v.extractLsb' 0 4 ∧ (s.writeReg .cfg v).cfg.srcCs = v.extractLsb' 4 4 ∧
      (s.writeReg .cfg v).cfg.dstCs = v.extractLsb' 8 4 ∧ (s.writeReg .cfg v).cfg.hdrEn = v.getLsbD 16 ∧
      (s.writeReg .cfg v).cfg.irqEn = v.getLsbD 17 ∧ (s.writeReg .width v).width = v.extractLsb' 0 32 ∧
      (s.writeReg .height v).height = v.extractLsb' 0 32 ∧ (s.writeReg .row v).row = v.extractLsb' 0 32 ∧
      (s.writeReg (.sin 0) v).sin = { s.sin with r := v } ∧ (s.writeReg (.sin 1) v).sin = { s.sin with g := v } ∧
      (s.writeReg (.sin 2) v).sin = { s.sin with b := v } ∧ (s.writeReg (.sin 3) v).sin = { s.sin with a := v }) ∧
    ((s.writeReg .cfg v).regValue .cfg = v &&& 0x30FFF ∧ s.writeReg .cfg v = { s with cfg := (s.writeReg .cfg v).cfg }) ∧
    ((s.writeReg .width v).regValue .width = v &&& 0xFFFFFFFF ∧
      s.writeReg .width v = { s with width := (s.writeReg .width v).width }) ∧
    ((s.writeReg .height v).regValue .height = v &&& 0xFFFFFFFF ∧
      s.writeReg .height v = { s with height := (s.writeReg .height v).height }) ∧
    ((s.writeReg .row v).regValue .row = v &&& 0xFFFFFFFF ∧
      s.writeReg .row v = { s with row := (s.writeReg .row v).row }) ∧
    (∀ k : Fin 4, (s.writeReg (.sin k) v).regValue (.sin k) = v ∧
      (∀ l : Fin 4, l ≠ k → (s.writeReg (.sin k) v).regValue (.sin l) = s.regValue (.sin l)) ∧
      s.writeReg (.sin k) v = { s with sin := (s.writeReg (.sin k) v).sin })

/-- R23, R176: while BUSY = 1 a write of CFG, WIDTH, HEIGHT, ROW, SIN or CLAMP_COUNT is ignored. -/
def Obligations.BusyIgnoresConfigurationWrites : Prop :=
  ∀ (s : State) (v : Word), s.status.busy = true →
    s.writeReg .cfg v = s ∧ s.writeReg .width v = s ∧ s.writeReg .height v = s ∧ s.writeReg .row v = s ∧
    s.writeReg .clampCount v = s ∧ ∀ k : Fin 4, s.writeReg (.sin k) v = s

/-- R18, R28 to R32, R34, R35, R71: the register map; while BUSY = 0 every register reads its value, and what that value
is (STATUS, OUT_SIZE and ROW_STRIDE have statements of their own); the read-only and the reserved registers ignore
writes; VERSION reads 1, CMD and the reserved ones read 0, at any time. -/
def Obligations.RegisterMapAndReadOnlyRegisters : Prop :=
  ∀ (s : State) (v free : Word),
    (s.writeReg .outSize v = s ∧ s.writeReg .rowStride v = s ∧ s.writeReg .qout0 v = s ∧ s.writeReg .qout1 v = s ∧
      s.writeReg .version v = s ∧ s.writeReg .reserved v = s ∧ ∀ k : Fin 4, s.writeReg (.sout k) v = s) ∧
    s.readReg free .version = 1 ∧ s.readReg free .reserved = 0 ∧ s.readReg free .cmd = 0 ∧
    (s.status.busy = false → ∀ r : Reg, s.readReg free r = s.regValue r) ∧
    (s.regValue .cfg = BitVec.ofNat 64 (s.cfg.format.toNat + s.cfg.srcCs.toNat * 2 ^ 4 + s.cfg.dstCs.toNat * 2 ^ 8 +
        s.cfg.hdrEn.toNat * 2 ^ 16 + s.cfg.irqEn.toNat * 2 ^ 17) ∧
      s.regValue .width = s.width.setWidth 64 ∧ s.regValue .height = s.height.setWidth 64 ∧
      s.regValue .row = s.row.setWidth 64 ∧ s.regValue (.sin 0) = s.sin.r ∧ s.regValue (.sin 1) = s.sin.g ∧
      s.regValue (.sin 2) = s.sin.b ∧ s.regValue (.sin 3) = s.sin.a ∧ s.regValue (.sout 0) = s.sout.r ∧
      s.regValue (.sout 1) = s.sout.g ∧ s.regValue (.sout 2) = s.sout.b ∧ s.regValue (.sout 3) = s.sout.a ∧
      s.regValue .qout0 = s.qout0 ∧ s.regValue .qout1 = s.qout1 ∧
      (s.inst.hasClampCounter = true → s.regValue .clampCount = s.clampCount)) ∧
    (∀ off, 0xA0 ≤ off → off ≤ 0xF8 → Reg.ofOffset off = .reserved) ∧
    (Reg.ofOffset 0x00 = .cmd ∧ Reg.ofOffset 0x08 = .status ∧ Reg.ofOffset 0x10 = .cfg ∧ Reg.ofOffset 0x18 = .width ∧
      Reg.ofOffset 0x20 = .height ∧ Reg.ofOffset 0x28 = .row ∧ Reg.ofOffset 0x30 = .outSize ∧
      Reg.ofOffset 0x38 = .rowStride ∧ Reg.ofOffset 0x80 = .qout0 ∧ Reg.ofOffset 0x88 = .qout1 ∧
      Reg.ofOffset 0x90 = .clampCount ∧ Reg.ofOffset 0x98 = .version ∧
      ∀ k : Fin 4, Reg.ofOffset (0x40 + 8 * k.val) = .sin k ∧ Reg.ofOffset (0x60 + 8 * k.val) = .sout k)

/-- R33: CLAMP_COUNT saturates, is cleared by any host write while BUSY = 0, and where it is not implemented reads 0,
ignores writes and does not count. That it also reads 0 while BUSY = 1 is the model's reading (log entry 12). -/
def Obligations.ClampCounterSaturatesAndClears : Prop :=
  ∀ (s : State) (v free : Word) (n : Nat),
    (s.inst.hasClampCounter = true →
      (s.countClamps n).clampCount.toNat = min (s.clampCount.toNat + n) (2 ^ 64 - 1) ∧
      (s.status.busy = false → s.writeReg .clampCount v = { s with clampCount := 0 } ∧
        s.readReg free .clampCount = s.clampCount)) ∧
    (s.inst.hasClampCounter = false →
      s.countClamps n = s ∧ s.writeReg .clampCount v = s ∧ s.readReg free .clampCount = 0)

/-- R39, R158: IRQ is DONE and IRQ_EN, and IRQ_EN is written only while BUSY = 0; IRQ rises at every completion when
enabled, with or without error, and falls when the host clears DONE or issues the next command. -/
def Obligations.InterruptFollowsDone : Prop :=
  ∀ s : State, (s.irq = true ↔ s.status.done = true ∧ s.cfg.irqEn = true) ∧
    (∀ v : Word, s.status.busy = true → (s.writeReg .cfg v).cfg.irqEn = s.cfg.irqEn) ∧
    (∀ t : State, engineStep s = .next t → s.cfg.irqEn = true → t.irq = true) ∧
    (∀ v : Word, v.getLsbD 1 = true → (s.writeReg .status v).irq = false) ∧
    (∀ w : Word, s.status.busy = false → (s.writeReg .cmd w).irq = false)

/-! ### Host accesses -/

/-- R54: a host read that answers a next state changes nothing of the block. -/
def Obligations.ReadsHaveNoSideEffect : Prop :=
  ∀ (s t : State) (sp : Space) (a n : Nat), hostStep (.read sp a n) s = .next t →
    t = { s with outside := t.outside } ∧ t.outside.ops = s.outside.ops ∧ t.outside.turns = s.outside.turns

/-- R175: while BUSY = 1 a read of SOUT, QOUT or OUT returns a free value, as does QLEN in a read of STATUS; the rest of
STATUS and the configuration, size, SIN and VERSION registers return their values. That QLEN is the free value's low
5 bits, that OUT is its low `n` bytes, and that the value is drawn by a counter is the model's form of 'any value' (log
entry 7). -/
def Obligations.BusyReadsReturnAnyValueWhereResultsStand : Prop :=
  ∀ (s : State) (free : Word), s.status.busy = true →
    (∀ k : Fin 4, s.readReg free (.sout k) = free) ∧ s.readReg free .qout0 = free ∧ s.readReg free .qout1 = free ∧
    (s.inst.hasClampCounter = true → s.readReg free .clampCount = free) ∧
    ((s.readReg free .status).extractLsb' 16 5 = free.extractLsb' 0 5 ∧
      ∀ k, k < 16 ∨ 21 ≤ k → (s.readReg free .status).getLsbD k = (s.regValue .status).getLsbD k) ∧
    (∀ r : Reg, r = .cfg ∨ r = .width ∨ r = .height ∨ r = .row ∨ r = .outSize ∨ r = .rowStride ∨ r = .version ∨
      (∃ k : Fin 4, r = .sin k) → s.readReg free r = s.regValue r) ∧
    (∀ a n bs, s.outMem.readBytes a n = some bs → s.hostReadOut a n = .next (s.returnRead (s.freeBytes n)))

/-- R46, R48, R49, R50, R175: a host access of wrong width, misaligned, or past the end of its space is refused, read or
write. A legal access of the window writes the register at its offset, or returns what that register reads as; a legal
read of written bytes of IN returns them, little-endian, whether BUSY is 0 or 1. -/
def Obligations.IllFormedAccessIsRefused : Prop :=
  ∀ (s : State) (sp : Space) (a n : Nat) (v : Word),
    (s.spaceBytes .regs = 256 ∧ s.spaceBytes .output = s.inst.outCapacity ∧
      s.spaceBytes .input = s.inst.inCapacity * 4 * laneBytes s.inst.sampleFmt ∧ laneBytes .binary64 = 8 ∧
      laneBytes .binary32 = 4) ∧
    (s.accessLegal sp a n = true ↔ (sp = .regs → n = 8) ∧ (sp = .input → n = laneBytes s.inst.sampleFmt) ∧
      (sp = .output → n = 1 ∨ n = 2 ∨ n = 4 ∨ n = 8) ∧ a % n = 0 ∧ a + n ≤ s.spaceBytes sp) ∧
    (¬((sp = .regs → n = 8) ∧ (sp = .input → n = laneBytes s.inst.sampleFmt) ∧
        (sp = .output → n = 1 ∨ n = 2 ∨ n = 4 ∨ n = 8) ∧ a % n = 0 ∧ a + n ≤ s.spaceBytes sp) →
      hostStep (.write sp a n v) s = .refused .illFormedAccess ∧
      hostStep (.read sp a n) s = .refused .illFormedAccess) ∧
    (a % 8 = 0 → a + 8 ≤ 256 →
      hostStep (.write .regs a 8 v) s = .next (s.writeReg (Reg.ofOffset a) v) ∧
      ∃ u : State, hostStep (.read .regs a 8) s = .next u ∧
        u.outside.reads = s.readReg s.freeValue (Reg.ofOffset a) :: s.outside.reads) ∧
    (s.accessLegal .input a n = true → ∀ bs : List Byte, s.inMem.readBytes a n = some bs →
      ∃ u : State, hostStep (.read .input a n) s = .next u ∧
        u.outside.reads = BitVec.ofNat 64 (ofBytesLE bs) :: s.outside.reads)

/-- R48, R52: while BUSY = 0 a host write of `n` bytes of OUT writes the value's low `n` bytes, least significant first,
and no other byte; a read of the same bytes then returns them. -/
def Obligations.OutWriteReadsBack : Prop :=
  ∀ (s : State) (a n : Nat) (v : Word), s.status.busy = false → s.accessLegal .output a n = true →
    ∃ t u : State, hostStep (.write .output a n v) s = .next t ∧
      (∀ k, k < n → t.readOut (a + k) = some (v.extractLsb' (8 * k) 8)) ∧
      (∀ x, x < a ∨ a + n ≤ x → t.readOut x = s.readOut x) ∧ t = { s with outMem := t.outMem } ∧
      hostStep (.read .output a n) t = .next u ∧
      u.outside.reads = BitVec.ofNat 64 (v.toNat % 256 ^ n) :: s.outside.reads

/-- R46, R47, R175: where a lane stands in IN; a sample is its four lanes, all of them written; while BUSY = 0 a host
write of one lane of IN makes that lane written with that pattern, and no other lane changes; a host read of that lane
then returns the pattern, whatever STATUS is by then. -/
def Obligations.LaneWriteMakesLaneWritten : Prop :=
  (∀ (fmt : SampleFmt) (i : Nat) (k : Fin 4), laneAddr fmt i k = i * 4 * laneBytes fmt + k.val * laneBytes fmt) ∧
  (∀ (s : State) (i : Nat) (x : Sample), s.readSample i = some x ↔ ∀ k : Fin 4, s.readLane i k = some (x.lane k)) ∧
  ∀ (s : State) (i : Nat) (k : Fin 4) (v : Word), s.status.busy = false → i < s.inst.inCapacity →
    ∃ t : State,
      hostStep (.write .input (laneAddr s.inst.sampleFmt i k) (laneBytes s.inst.sampleFmt) v) s = .next t ∧
      t = { s with inMem := t.inMem } ∧
      (s.inst.sampleFmt = .binary64 → t.readLane i k = some v) ∧
      (s.inst.sampleFmt = .binary32 → t.readLane i k = some (widen32 (v.extractLsb' 0 32))) ∧
      (∀ (i' : Nat) (k' : Fin 4), i' ≠ i ∨ k' ≠ k → t.readLane i' k' = s.readLane i' k') ∧
      ∀ st : Status, ∃ u : State,
        hostStep (.read .input (laneAddr s.inst.sampleFmt i k) (laneBytes s.inst.sampleFmt)) { t with status := st } =
          .next u ∧
        u.outside.reads = BitVec.ofNat 64 (v.toNat % 256 ^ laneBytes s.inst.sampleFmt) :: s.outside.reads

/-- R43, R160: a legal host read of OUT that takes in an unwritten byte meets UNWRITTEN_OUT. That it does so while
BUSY = 1 too is the model's reading of R175 beside R160 (log entry 10). -/
def Obligations.UnwrittenOutReadFaults : Prop :=
  ∀ (s : State) (a n x : Nat), s.accessLegal .output a n = true → a ≤ x → x < a + n → s.readOut x = none →
    hostStep (.read .output a n) s = .fault .unwrittenOut

/-- R160, R173, R174: a host write of IN or OUT while BUSY = 1 sets the model-fault mark, and from a state with a mark
no step leads on but the platform's reset. That the step which sets the mark changes nothing else (the operation and its
turn are over) is the model's choice (log entry 9), and so is that the machine stops with the mark set (log entry 8). -/
def Obligations.BusyMemoryWriteSetsTheFaultMark : Prop :=
  ∀ (s : State) (a n : Nat) (v : Word) (ops : List HostOp) (turns : List Agent), s.status.busy = true →
    s.faultMark = none → s.outside.turns = .host :: turns →
    (s.outside.ops = .write .input a n v :: ops → s.accessLegal .input a n = true → ∃ t : State,
      step s = .next t ∧
      t = { s with faultMark := some .hazardIn, outside := { s.outside with ops := ops, turns := turns } } ∧
      (ops.head? ≠ some .reset → step t = .fault .hazardIn)) ∧
    (s.outside.ops = .write .output a n v :: ops → s.accessLegal .output a n = true → ∃ t : State,
      step s = .next t ∧
      t = { s with faultMark := some .hazardOut, outside := { s.outside with ops := ops, turns := turns } } ∧
      (ops.head? ≠ some .reset → step t = .fault .hazardOut))

/-- R18, R19, R31, R32: no host operation but the platform's reset changes SOUT, QOUT or QLEN; only a write of IN changes
IN, only a write of OUT changes OUT, and only a write of the window changes a register. -/
def Obligations.HostNeverWritesResults : Prop :=
  ∀ (s t : State) (op : HostOp), op ≠ .reset → hostStep op s = .next t →
    t.sout = s.sout ∧ t.qout0 = s.qout0 ∧ t.qout1 = s.qout1 ∧ t.status.qlen = s.status.qlen ∧ t.inst = s.inst ∧
    ((∀ a n v, op ≠ .write .input a n v) → t.inMem = s.inMem) ∧
    ((∀ a n v, op ≠ .write .output a n v) → t.outMem = s.outMem) ∧
    ((∀ a n v, op ≠ .write .regs a n v) → t.status = s.status ∧ t.cfg = s.cfg ∧ t.width = s.width ∧
      t.height = s.height ∧ t.row = s.row ∧ t.sin = s.sin ∧ t.clampCount = s.clampCount ∧ t.curOp = s.curOp)

/-! ### Reset, steps, runs -/

/-- R169: the state after reset, on every instance. -/
def Obligations.ResetState : Prop :=
  ∀ (p : Instance) (o : Outside) (s : State), s = State.resetOf p o →
    s.regValue .status = 0 ∧ s.regValue .cfg = 0 ∧ s.regValue .width = 0 ∧ s.regValue .height = 0 ∧
    s.regValue .row = 0 ∧ s.regValue .outSize = 0 ∧ s.regValue .rowStride = 0 ∧
    (∀ k : Fin 4, s.regValue (.sin k) = 0 ∧ s.regValue (.sout k) = 0) ∧ s.regValue .qout0 = 0 ∧
    s.regValue .qout1 = 0 ∧ s.regValue .clampCount = 0 ∧ s.regValue .version = 1 ∧ s.irq = false ∧
    (∀ (i : Nat) (k : Fin 4), s.readLane i k = none) ∧ (∀ a, s.readOut a = none) ∧ s.faultMark = none

/-- R168, R169: reset asserted while a command is in execution abandons it: the block is as after reset and none of the
command's effects has happened. Reset asserted while the block is idle, or with a model fault marked, leads there too.
What lies outside the block is as before, less the reset itself and, while BUSY = 1, the turn it took (the model's, log
entries 1 and 19); that reset leads on from a marked block is the model's reading (log entry 8). -/
def Obligations.ResetAbandonsTheCommand : Prop :=
  ∀ (s : State) (ops : List HostOp), s.outside.ops = .reset :: ops →
    (∀ turns : List Agent, s.faultMark = none → s.status.busy = true → s.outside.turns = .host :: turns →
      step s = .next (State.resetOf s.inst { s.outside with ops := ops, turns := turns })) ∧
    (s.faultMark = none → s.status.busy = false →
      step s = .next (State.resetOf s.inst { s.outside with ops := ops })) ∧
    (s.faultMark ≠ none → step s = .next (State.resetOf s.inst
      { s.outside with
        ops := ops, turns := if s.status.busy then s.outside.turns.tail else s.outside.turns }))

/-- R66, R139, R155, R160: at the engine's turn a step is `exec` of the command in execution, or the completion with
ILLEGAL_CMD of an illegal one, on the state with the turn used up; a fault of it sets the mark; and a word that decodes,
placed by `withFetchWord`, is run by the very next step. The turns (log entry 1), `withFetchWord` (log entry 2), and that
the step which sets the mark changes nothing else (log entries 8 and 9) are the model's. -/
def Obligations.StepRunsTheCommandInExecution : Prop :=
  ∀ (s : State) (i : Instr),
    (s.faultMark = none → s.mover = .engine → s.curOp = .illegal → step s = .next
      { s.useTurn with
        status := { s.useTurn.status with busy := false, done := true, err := true, errcode := 1 } }) ∧
    (s.faultMark = none → s.mover = .engine → s.curOp = .command i →
      (∀ t, exec i s.useTurn = .next t → step s = .next t) ∧
      (∀ f, exec i s.useTurn = .fault f → step s = .next { s.useTurn with faultMark := some f })) ∧
    (∀ (w : Nat) (u : State), w < 2 ^ 64 → decodeWord (BitVec.ofNat 64 w) = .ok i →
      u = { s with
            status := { s.status with busy := true, done := false, err := false, errcode := 0 }
            curOp := .command i
            faultMark := none } →
      (∀ t, exec i u = .next t → step (s.withFetchWord 64 w) = .next t) ∧
      (∀ f, exec i u = .fault f → step (s.withFetchWord 64 w) = .next { u with faultMark := some f }))

/-- R59, R167: while BUSY = 0, and at the host's turn while BUSY = 1, a step is the oldest operation to come, taken off
the list with the turn it used; a fault of it sets the mark and a refusal of it is the step's. With none to come and
BUSY = 0 the block stays as it is. R76: WAIT reads STATUS, is the next operation again while the value read has BUSY = 1,
and changes nothing of the block. The list of operations and the turns (log entry 1), the mark (log entries 8 and 9), the
idle step (log entry 16), WAIT as one operation (log entry 17) and the list of what reads return (log entry 18) are the
model's. -/
def Obligations.StepRunsTheHostOperation : Prop :=
  (∀ s : State, ∃ t : State, hostStep .wait s = .next t ∧
    t = { s with outside := t.outside } ∧ t.outside.turns = s.outside.turns ∧
    (s.status.busy = true → t.outside.ops = .wait :: s.outside.ops ∧
      ∃ w : Word, w.getLsbD 0 = true ∧ w = s.readReg s.freeValue .status ∧ t.outside.reads = w :: s.outside.reads) ∧
    (s.status.busy = false → t.outside.ops = s.outside.ops ∧
      t.outside.reads = s.regValue .status :: s.outside.reads)) ∧
  ∀ s : State, s.faultMark = none →
    (∀ (op : HostOp) (ops : List HostOp) (turns : List Agent) (u : State), s.outside.ops = op :: ops →
      (s.status.busy = false ∧ s.outside.turns = turns) ∨
        (s.status.busy = true ∧ s.outside.turns = .host :: turns) →
      u = { s with outside := { s.outside with ops := ops, turns := turns } } →
      (∀ t, hostStep op u = .next t → step s = .next t) ∧
      (∀ f, hostStep op u = .fault f → step s = .next { u with faultMark := some f }) ∧
      (∀ r, hostStep op u = .refused r → step s = .refused r)) ∧
    (s.status.busy = false → s.outside.ops = [] → step s = .next s)

/-- R59, R159 and program P7: two NOPs written one after the other end with STATUS = 0x2 when the first completes before
the second write, and with OVR set, 0xA, when the write comes first. -/
def Obligations.TwoCommandWritesHaveTwoOutcomes : Prop :=
  ∀ p : Instance,
    (∃ t, State.after 4 (State.resetOf p ⟨[opCmd .nop, opCmd .nop], [], [], 0⟩) = some t ∧ t.finished = true ∧
      t.regValue .status = 0x2) ∧
    (∃ t, State.after 3 (State.resetOf p ⟨[opCmd .nop, opCmd .nop], [.host], [], 0⟩) = some t ∧ t.finished = true ∧
      t.regValue .status = 0xA)

/-- R149: a command in execution leaves it, unless the host's program is refused: then BUSY = 0, or a model fault is
marked. R149 gives no bound: that one step more than the turns to come is enough is the model's finite list of turns
(log entry 23). -/
def Obligations.EveryCommandCompletes : Prop :=
  ∀ s : State, s.status.busy = true → s.faultMark = none →
    ∃ n, n ≤ s.outside.turns.length + 1 ∧
      ((∃ t : State, Sys2Proof.core.run n s = .next t ∧ (t.status.busy = false ∨ t.faultMark ≠ none)) ∨
        ∃ r : Refusal, Sys2Proof.core.run n s = .refused r)

/-- R42, R45, R19, R32, R33, R152, R154: every step keeps the invariant of the state, and the parameters (R15; they
stand in State by the model's choice, log entry 3). -/
def Obligations.StepKeepsTheInvariant : Prop :=
  ∀ s t : State, s.Inv → step s = .next t → t.Inv ∧ t.inst = s.inst

/-- R169, R172: the invariant holds after reset of every legal instance, and of the default one (whose capacities are the
model's choice, log entry 4). -/
def Obligations.ResetMeetsTheInvariant : Prop :=
  (∀ (p : Instance) (o : Outside), p.wellFormed = true → (State.resetOf p o).Inv) ∧ State.reset.Inv
end

