-- ==== Sys2Proof/Laws/Memory.lean ====
section
/-! SUPPORT. The memories: reading after writing, and the canonical form. -/

namespace Sys2Proof.Machine

theorem Memory.read_write (m : Memory) (a : Nat) (v : Byte) (x : Nat) :
    (m.write a v).read x = if x = a then some v else m.read x := by
  induction m with
  | nil => simp [Memory.write, Memory.read, eq_comm]
  | cons c t ih =>
    obtain ⟨b, w⟩ := c
    simp only [Memory.write]
    split
    · simp [Memory.read, eq_comm]
    · split
      · subst_vars
        by_cases hx : x = b <;> simp [Memory.read, hx, eq_comm]
      · simp only [Memory.read, ih]
        split <;> split <;> simp_all

theorem Memory.read_writeBytes (m : Memory) (a : Nat) (bs : List Byte) (x : Nat) :
    (m.writeBytes a bs).read x = if a ≤ x ∧ x < a + bs.length then bs[x - a]? else m.read x := by
  induction bs generalizing m a with
  | nil =>
    simp only [Memory.writeBytes, List.length_nil]
    rw [if_neg (by omega)]
  | cons b bs ih =>
    simp only [Memory.writeBytes, ih, Memory.read_write, List.length_cons]
    by_cases h : x = a
    · subst h; simp
    · by_cases h2 : a + 1 ≤ x ∧ x < a + 1 + bs.length
      · rw [if_pos h2, if_pos (by omega)]
        rw [show x - a = (x - (a + 1)) + 1 by omega, List.getElem?_cons_succ]
      · rw [if_neg h2, if_neg h, if_neg (by omega)]

/-- An address outside the written bytes reads as before. -/
theorem Memory.read_writeBytes_outside (m : Memory) (a : Nat) (bs : List Byte) (x : Nat)
    (h : x < a ∨ a + bs.length ≤ x) : (m.writeBytes a bs).read x = m.read x := by
  rw [Memory.read_writeBytes, if_neg (by omega)]

/-- An address inside the written bytes reads the byte written there. -/
theorem Memory.read_writeBytes_inside (m : Memory) (a : Nat) (bs : List Byte) (k : Nat) (h : k < bs.length) :
    (m.writeBytes a bs).read (a + k) = some bs[k] := by
  rw [Memory.read_writeBytes, if_pos (by omega)]
  simp [h]

/-- Every listed address is above `n`. -/
def Memory.above (m : Memory) (n : Nat) : Prop := ∀ c ∈ m, n < c.1

theorem Memory.wf_cons (a : Nat) (v : Byte) (t : Memory) :
    Memory.wf ((a, v) :: t) = true ↔ Memory.above t a ∧ Memory.wf t = true := by
  induction t generalizing a v with
  | nil => simp [Memory.wf, Memory.above]
  | cons c t ih =>
    obtain ⟨b, w⟩ := c
    simp only [Memory.wf, Bool.and_eq_true, decide_eq_true_eq, Memory.above, List.mem_cons, forall_eq_or_imp]
    constructor
    · rintro ⟨h1, h2⟩
      refine ⟨⟨h1, fun c hc => ?_⟩, h2⟩
      have := ((ih b w).1 h2).1 c hc
      omega
    · rintro ⟨⟨h1, _⟩, h2⟩
      exact ⟨h1, h2⟩

theorem Memory.write_above (m : Memory) (a n : Nat) (v : Byte) (h : Memory.above m n) (ha : n < a) :
    Memory.above (m.write a v) n := by
  induction m with
  | nil => intro c hc; simp_all [Memory.write]
  | cons c t ih =>
    obtain ⟨b, w⟩ := c
    have hb : n < b := h (b, w) (by simp)
    have ht : Memory.above t n := fun c hc => h c (by simp [hc])
    simp only [Memory.write]
    split
    · intro c hc
      simp only [List.mem_cons] at hc
      rcases hc with rfl | rfl | hc
      · exact ha
      · exact hb
      · exact ht c hc
    · split
      · intro c hc
        simp only [List.mem_cons] at hc
        rcases hc with rfl | hc
        · exact ha
        · exact ht c hc
      · intro c hc
        simp only [List.mem_cons] at hc
        rcases hc with rfl | hc
        · exact hb
        · exact ih ht c hc

/-- A write keeps the canonical form. -/
theorem Memory.write_wf (m : Memory) (a : Nat) (v : Byte) (h : m.wf = true) : (m.write a v).wf = true := by
  induction m with
  | nil => rfl
  | cons c t ih =>
    obtain ⟨b, w⟩ := c
    obtain ⟨h1, h2⟩ := (Memory.wf_cons b w t).1 h
    simp only [Memory.write]
    split
    · rename_i hlt
      refine (Memory.wf_cons a v _).2 ⟨?_, h⟩
      intro c hc
      simp only [List.mem_cons] at hc
      rcases hc with rfl | hc
      · exact hlt
      · exact Nat.lt_trans hlt (h1 c hc)
    · split
      · rename_i _ heq
        subst heq
        exact (Memory.wf_cons a v t).2 ⟨h1, h2⟩
      · rename_i hge hne
        exact (Memory.wf_cons b w _).2 ⟨Memory.write_above t a b v h1 (by omega), ih h2⟩

/-- A write of bytes keeps the canonical form. -/
theorem Memory.writeBytes_wf (m : Memory) (a : Nat) (bs : List Byte) (h : m.wf = true) :
    (m.writeBytes a bs).wf = true := by
  induction bs generalizing m a with
  | nil => exact h
  | cons b bs ih => exact ih _ _ (Memory.write_wf m a b h)

theorem Memory.below_iff (m : Memory) (n : Nat) : m.below n = true ↔ ∀ c ∈ m, c.1 < n := by
  simp only [Memory.below, List.all_eq_true, decide_eq_true_eq]

theorem Memory.mem_write (m : Memory) (a : Nat) (v : Byte) (c : Host.Cell) (h : c ∈ m.write a v) :
    c = (a, v) ∨ c ∈ m := by
  induction m with
  | nil => simpa [Memory.write] using h
  | cons d t ih =>
    obtain ⟨b, w⟩ := d
    simp only [Memory.write] at h
    split at h
    · simpa using h
    · split at h
      · rcases List.mem_cons.1 h with h | h
        · exact .inl h
        · exact .inr (List.mem_cons_of_mem _ h)
      · rcases List.mem_cons.1 h with h | h
        · exact .inr (h ▸ List.mem_cons_self)
        · exact (ih h).imp id (List.mem_cons_of_mem _)

/-- A write below `n` keeps every listed address below `n`. -/
theorem Memory.write_below (m : Memory) (a n : Nat) (v : Byte) (h : m.below n = true) (ha : a < n) :
    (m.write a v).below n = true := by
  rw [Memory.below_iff] at *
  intro c hc
  rcases Memory.mem_write m a v c hc with rfl | hc
  · exact ha
  · exact h c hc

/-- A write of bytes below `n` keeps every listed address below `n`. -/
theorem Memory.writeBytes_below (m : Memory) (a n : Nat) (bs : List Byte) (h : m.below n = true)
    (ha : a + bs.length ≤ n) : (m.writeBytes a bs).below n = true := by
  induction bs generalizing m a with
  | nil => exact h
  | cons b bs ih =>
    simp only [List.length_cons] at ha
    exact ih _ _ (Memory.write_below m a n b h (by omega)) (by omega)

/-- Reading `n` bytes succeeds exactly when each of them is written, and gives them in order. -/
theorem Memory.readBytes_eq_some (m : Memory) (a n : Nat) (bs : List Byte) :
    m.readBytes a n = some bs ↔ bs.length = n ∧ ∀ k, k < n → m.read (a + k) = bs[k]? := by
  induction n generalizing a bs with
  | zero => cases bs <;> simp [Memory.readBytes]
  | succ n ih =>
    cases bs with
    | nil =>
      simp only [Memory.readBytes, List.length_nil]
      constructor
      · intro h; split at h <;> simp_all
      · rintro ⟨h, _⟩; omega
    | cons b bs =>
      have key : m.readBytes a (n + 1) = some (b :: bs) ↔ m.read a = some b ∧ m.readBytes (a + 1) n = some bs := by
        simp only [Memory.readBytes]
        cases m.read a <;> cases m.readBytes (a + 1) n <;> simp
      rw [key, ih]
      simp only [List.length_cons, Nat.add_right_cancel_iff]
      constructor
      · rintro ⟨h0, h1, h2⟩
        refine ⟨h1, fun k hk => ?_⟩
        cases k with
        | zero => simpa using h0
        | succ k =>
          have := h2 k (by omega)
          rw [List.getElem?_cons_succ, ← this]
          congr 1; omega
      · rintro ⟨h1, h2⟩
        refine ⟨by simpa using h2 0 (by omega), h1, fun k hk => ?_⟩
        have := h2 (k + 1) (by omega)
        rw [List.getElem?_cons_succ] at this
        rw [← this]; congr 1; omega

/-- Reading back the bytes just written. -/
theorem Memory.readBytes_writeBytes (m : Memory) (a : Nat) (bs : List Byte) :
    (m.writeBytes a bs).readBytes a bs.length = some bs := by
  rw [Memory.readBytes_eq_some]
  refine ⟨rfl, fun k hk => ?_⟩
  rw [Memory.read_writeBytes_inside m a bs k hk]
  simp [hk]

/-- Two memories in canonical form that read alike are the same memory. -/
theorem Memory.ext_of_read (m n : Memory) (hm : m.wf = true) (hn : n.wf = true)
    (h : ∀ a, m.read a = n.read a) : m = n := by
  have read_none : ∀ (t : Memory) (x : Nat), Memory.above t x → Memory.read t x = none := by
    intro t x ht
    induction t with
    | nil => rfl
    | cons c t ih =>
      obtain ⟨b, w⟩ := c
      have hb : x < b := ht (b, w) (by simp)
      simp only [Memory.read, if_neg (show ¬b = x by omega)]
      exact ih fun c hc => ht c (by simp [hc])
  induction m generalizing n with
  | nil =>
    cases n with
    | nil => rfl
    | cons c t => have := h c.1; simp [Memory.read] at this
  | cons c t ih =>
    obtain ⟨a, v⟩ := c
    cases n with
    | nil => have := h a; simp [Memory.read] at this
    | cons d u =>
      obtain ⟨b, w⟩ := d
      obtain ⟨ha, ht⟩ := (Memory.wf_cons a v t).1 hm
      obtain ⟨hb, hu⟩ := (Memory.wf_cons b w u).1 hn
      have hab : a = b := by
        rcases Nat.lt_trichotomy a b with hlt | heq | hgt
        · have h1 := h a
          have h2 : Memory.read u a = none := read_none u a fun c hc => Nat.lt_trans hlt (hb c hc)
          simp [Memory.read, h2, show ¬b = a by omega] at h1
        · exact heq
        · have h1 := h b
          have h2 : Memory.read t b = none := read_none t b fun c hc => Nat.lt_trans hgt (ha c hc)
          simp [Memory.read, h2, show ¬a = b by omega] at h1
      subst hab
      have hv : v = w := by have := h a; simpa [Memory.read] using this
      subst hv
      have : t = u := by
        refine ih u ht hu fun x => ?_
        by_cases hx : a = x
        · subst hx; rw [read_none t a ha, read_none u a hb]
        · have := h x; simpa [Memory.read, hx] using this
      rw [this]

end Sys2Proof.Machine
end

