-- ==== Sys2Proof/Laws/State.lean ====
section
/-! SUPPORT. One lemma per field per update of State, all true by rfl, so that no proof unfolds a record update. -/

namespace Sys2Proof.Machine

@[simp] theorem State.finish_inst (s : State) : (s.finish).inst = s.inst := rfl
@[simp] theorem State.finish_status (s : State) : (s.finish).status = s.status.finished := rfl
@[simp] theorem State.finish_cfg (s : State) : (s.finish).cfg = s.cfg := rfl
@[simp] theorem State.finish_width (s : State) : (s.finish).width = s.width := rfl
@[simp] theorem State.finish_height (s : State) : (s.finish).height = s.height := rfl
@[simp] theorem State.finish_row (s : State) : (s.finish).row = s.row := rfl
@[simp] theorem State.finish_sin (s : State) : (s.finish).sin = s.sin := rfl
@[simp] theorem State.finish_sout (s : State) : (s.finish).sout = s.sout := rfl
@[simp] theorem State.finish_qout0 (s : State) : (s.finish).qout0 = s.qout0 := rfl
@[simp] theorem State.finish_qout1 (s : State) : (s.finish).qout1 = s.qout1 := rfl
@[simp] theorem State.finish_clampCount (s : State) : (s.finish).clampCount = s.clampCount := rfl
@[simp] theorem State.finish_curOp (s : State) : (s.finish).curOp = s.curOp := rfl
@[simp] theorem State.finish_inMem (s : State) : (s.finish).inMem = s.inMem := rfl
@[simp] theorem State.finish_outMem (s : State) : (s.finish).outMem = s.outMem := rfl
@[simp] theorem State.finish_faultMark (s : State) : (s.finish).faultMark = s.faultMark := rfl
@[simp] theorem State.finish_outside (s : State) : (s.finish).outside = s.outside := rfl

@[simp] theorem State.fail_inst (s : State) (c : ErrorCode) : (s.fail c).inst = s.inst := rfl
@[simp] theorem State.fail_status (s : State) (c : ErrorCode) : (s.fail c).status = s.status.failed c := rfl
@[simp] theorem State.fail_cfg (s : State) (c : ErrorCode) : (s.fail c).cfg = s.cfg := rfl
@[simp] theorem State.fail_width (s : State) (c : ErrorCode) : (s.fail c).width = s.width := rfl
@[simp] theorem State.fail_height (s : State) (c : ErrorCode) : (s.fail c).height = s.height := rfl
@[simp] theorem State.fail_row (s : State) (c : ErrorCode) : (s.fail c).row = s.row := rfl
@[simp] theorem State.fail_sin (s : State) (c : ErrorCode) : (s.fail c).sin = s.sin := rfl
@[simp] theorem State.fail_sout (s : State) (c : ErrorCode) : (s.fail c).sout = s.sout := rfl
@[simp] theorem State.fail_qout0 (s : State) (c : ErrorCode) : (s.fail c).qout0 = s.qout0 := rfl
@[simp] theorem State.fail_qout1 (s : State) (c : ErrorCode) : (s.fail c).qout1 = s.qout1 := rfl
@[simp] theorem State.fail_clampCount (s : State) (c : ErrorCode) : (s.fail c).clampCount = s.clampCount := rfl
@[simp] theorem State.fail_curOp (s : State) (c : ErrorCode) : (s.fail c).curOp = s.curOp := rfl
@[simp] theorem State.fail_inMem (s : State) (c : ErrorCode) : (s.fail c).inMem = s.inMem := rfl
@[simp] theorem State.fail_outMem (s : State) (c : ErrorCode) : (s.fail c).outMem = s.outMem := rfl
@[simp] theorem State.fail_faultMark (s : State) (c : ErrorCode) : (s.fail c).faultMark = s.faultMark := rfl
@[simp] theorem State.fail_outside (s : State) (c : ErrorCode) : (s.fail c).outside = s.outside := rfl

@[simp] theorem State.issue_inst (s : State) (w : Word) : (s.issue w).inst = s.inst := rfl
@[simp] theorem State.issue_status (s : State) (w : Word) : (s.issue w).status = s.status.issued := rfl
@[simp] theorem State.issue_cfg (s : State) (w : Word) : (s.issue w).cfg = s.cfg := rfl
@[simp] theorem State.issue_width (s : State) (w : Word) : (s.issue w).width = s.width := rfl
@[simp] theorem State.issue_height (s : State) (w : Word) : (s.issue w).height = s.height := rfl
@[simp] theorem State.issue_row (s : State) (w : Word) : (s.issue w).row = s.row := rfl
@[simp] theorem State.issue_sin (s : State) (w : Word) : (s.issue w).sin = s.sin := rfl
@[simp] theorem State.issue_sout (s : State) (w : Word) : (s.issue w).sout = s.sout := rfl
@[simp] theorem State.issue_qout0 (s : State) (w : Word) : (s.issue w).qout0 = s.qout0 := rfl
@[simp] theorem State.issue_qout1 (s : State) (w : Word) : (s.issue w).qout1 = s.qout1 := rfl
@[simp] theorem State.issue_clampCount (s : State) (w : Word) : (s.issue w).clampCount = s.clampCount := rfl
@[simp] theorem State.issue_curOp (s : State) (w : Word) : (s.issue w).curOp = CurOp.ofWord w := rfl
@[simp] theorem State.issue_inMem (s : State) (w : Word) : (s.issue w).inMem = s.inMem := rfl
@[simp] theorem State.issue_outMem (s : State) (w : Word) : (s.issue w).outMem = s.outMem := rfl
@[simp] theorem State.issue_faultMark (s : State) (w : Word) : (s.issue w).faultMark = s.faultMark := rfl
@[simp] theorem State.issue_outside (s : State) (w : Word) : (s.issue w).outside = s.outside := rfl

@[simp] theorem State.dropCommand_inst (s : State) : (s.dropCommand).inst = s.inst := rfl
@[simp] theorem State.dropCommand_status (s : State) : (s.dropCommand).status = s.status.overrun := rfl
@[simp] theorem State.dropCommand_cfg (s : State) : (s.dropCommand).cfg = s.cfg := rfl
@[simp] theorem State.dropCommand_width (s : State) : (s.dropCommand).width = s.width := rfl
@[simp] theorem State.dropCommand_height (s : State) : (s.dropCommand).height = s.height := rfl
@[simp] theorem State.dropCommand_row (s : State) : (s.dropCommand).row = s.row := rfl
@[simp] theorem State.dropCommand_sin (s : State) : (s.dropCommand).sin = s.sin := rfl
@[simp] theorem State.dropCommand_sout (s : State) : (s.dropCommand).sout = s.sout := rfl
@[simp] theorem State.dropCommand_qout0 (s : State) : (s.dropCommand).qout0 = s.qout0 := rfl
@[simp] theorem State.dropCommand_qout1 (s : State) : (s.dropCommand).qout1 = s.qout1 := rfl
@[simp] theorem State.dropCommand_clampCount (s : State) : (s.dropCommand).clampCount = s.clampCount := rfl
@[simp] theorem State.dropCommand_curOp (s : State) : (s.dropCommand).curOp = s.curOp := rfl
@[simp] theorem State.dropCommand_inMem (s : State) : (s.dropCommand).inMem = s.inMem := rfl
@[simp] theorem State.dropCommand_outMem (s : State) : (s.dropCommand).outMem = s.outMem := rfl
@[simp] theorem State.dropCommand_faultMark (s : State) : (s.dropCommand).faultMark = s.faultMark := rfl
@[simp] theorem State.dropCommand_outside (s : State) : (s.dropCommand).outside = s.outside := rfl

@[simp] theorem State.clearStatus_inst (s : State) (v : Word) : (s.clearStatus v).inst = s.inst := rfl
@[simp] theorem State.clearStatus_status (s : State) (v : Word) : (s.clearStatus v).status = s.status.clearWrittenOnes v :=
  rfl
@[simp] theorem State.clearStatus_cfg (s : State) (v : Word) : (s.clearStatus v).cfg = s.cfg := rfl
@[simp] theorem State.clearStatus_width (s : State) (v : Word) : (s.clearStatus v).width = s.width := rfl
@[simp] theorem State.clearStatus_height (s : State) (v : Word) : (s.clearStatus v).height = s.height := rfl
@[simp] theorem State.clearStatus_row (s : State) (v : Word) : (s.clearStatus v).row = s.row := rfl
@[simp] theorem State.clearStatus_sin (s : State) (v : Word) : (s.clearStatus v).sin = s.sin := rfl
@[simp] theorem State.clearStatus_sout (s : State) (v : Word) : (s.clearStatus v).sout = s.sout := rfl
@[simp] theorem State.clearStatus_qout0 (s : State) (v : Word) : (s.clearStatus v).qout0 = s.qout0 := rfl
@[simp] theorem State.clearStatus_qout1 (s : State) (v : Word) : (s.clearStatus v).qout1 = s.qout1 := rfl
@[simp] theorem State.clearStatus_clampCount (s : State) (v : Word) : (s.clearStatus v).clampCount = s.clampCount :=
  rfl
@[simp] theorem State.clearStatus_curOp (s : State) (v : Word) : (s.clearStatus v).curOp = s.curOp := rfl
@[simp] theorem State.clearStatus_inMem (s : State) (v : Word) : (s.clearStatus v).inMem = s.inMem := rfl
@[simp] theorem State.clearStatus_outMem (s : State) (v : Word) : (s.clearStatus v).outMem = s.outMem := rfl
@[simp] theorem State.clearStatus_faultMark (s : State) (v : Word) : (s.clearStatus v).faultMark = s.faultMark := rfl
@[simp] theorem State.clearStatus_outside (s : State) (v : Word) : (s.clearStatus v).outside = s.outside := rfl

@[simp] theorem State.countClamps_inst (s : State) (n : Nat) : (s.countClamps n).inst = s.inst := rfl
@[simp] theorem State.countClamps_status (s : State) (n : Nat) : (s.countClamps n).status = s.status := rfl
@[simp] theorem State.countClamps_cfg (s : State) (n : Nat) : (s.countClamps n).cfg = s.cfg := rfl
@[simp] theorem State.countClamps_width (s : State) (n : Nat) : (s.countClamps n).width = s.width := rfl
@[simp] theorem State.countClamps_height (s : State) (n : Nat) : (s.countClamps n).height = s.height := rfl
@[simp] theorem State.countClamps_row (s : State) (n : Nat) : (s.countClamps n).row = s.row := rfl
@[simp] theorem State.countClamps_sin (s : State) (n : Nat) : (s.countClamps n).sin = s.sin := rfl
@[simp] theorem State.countClamps_sout (s : State) (n : Nat) : (s.countClamps n).sout = s.sout := rfl
@[simp] theorem State.countClamps_qout0 (s : State) (n : Nat) : (s.countClamps n).qout0 = s.qout0 := rfl
@[simp] theorem State.countClamps_qout1 (s : State) (n : Nat) : (s.countClamps n).qout1 = s.qout1 := rfl
@[simp] theorem State.countClamps_clampCount (s : State) (n : Nat) : (s.countClamps n).clampCount = if s.inst.hasClampCounter then saturatingCount s.clampCount n else s.clampCount :=
  rfl
@[simp] theorem State.countClamps_curOp (s : State) (n : Nat) : (s.countClamps n).curOp = s.curOp := rfl
@[simp] theorem State.countClamps_inMem (s : State) (n : Nat) : (s.countClamps n).inMem = s.inMem := rfl
@[simp] theorem State.countClamps_outMem (s : State) (n : Nat) : (s.countClamps n).outMem = s.outMem := rfl
@[simp] theorem State.countClamps_faultMark (s : State) (n : Nat) : (s.countClamps n).faultMark = s.faultMark := rfl
@[simp] theorem State.countClamps_outside (s : State) (n : Nat) : (s.countClamps n).outside = s.outside := rfl

@[simp] theorem State.writeOut_inst (s : State) (a : Nat) (bs : List Byte) : (s.writeOut a bs).inst = s.inst := rfl
@[simp] theorem State.writeOut_status (s : State) (a : Nat) (bs : List Byte) : (s.writeOut a bs).status = s.status :=
  rfl
@[simp] theorem State.writeOut_cfg (s : State) (a : Nat) (bs : List Byte) : (s.writeOut a bs).cfg = s.cfg := rfl
@[simp] theorem State.writeOut_width (s : State) (a : Nat) (bs : List Byte) : (s.writeOut a bs).width = s.width := rfl
@[simp] theorem State.writeOut_height (s : State) (a : Nat) (bs : List Byte) : (s.writeOut a bs).height = s.height :=
  rfl
@[simp] theorem State.writeOut_row (s : State) (a : Nat) (bs : List Byte) : (s.writeOut a bs).row = s.row := rfl
@[simp] theorem State.writeOut_sin (s : State) (a : Nat) (bs : List Byte) : (s.writeOut a bs).sin = s.sin := rfl
@[simp] theorem State.writeOut_sout (s : State) (a : Nat) (bs : List Byte) : (s.writeOut a bs).sout = s.sout := rfl
@[simp] theorem State.writeOut_qout0 (s : State) (a : Nat) (bs : List Byte) : (s.writeOut a bs).qout0 = s.qout0 := rfl
@[simp] theorem State.writeOut_qout1 (s : State) (a : Nat) (bs : List Byte) : (s.writeOut a bs).qout1 = s.qout1 := rfl
@[simp] theorem State.writeOut_clampCount (s : State) (a : Nat) (bs : List Byte) : (s.writeOut a bs).clampCount = s.clampCount :=
  rfl
@[simp] theorem State.writeOut_curOp (s : State) (a : Nat) (bs : List Byte) : (s.writeOut a bs).curOp = s.curOp := rfl
@[simp] theorem State.writeOut_inMem (s : State) (a : Nat) (bs : List Byte) : (s.writeOut a bs).inMem = s.inMem := rfl
@[simp] theorem State.writeOut_outMem (s : State) (a : Nat) (bs : List Byte) : (s.writeOut a bs).outMem = s.outMem.writeBytes a bs :=
  rfl
@[simp] theorem State.writeOut_faultMark (s : State) (a : Nat) (bs : List Byte) : (s.writeOut a bs).faultMark = s.faultMark :=
  rfl
@[simp] theorem State.writeOut_outside (s : State) (a : Nat) (bs : List Byte) : (s.writeOut a bs).outside = s.outside :=
  rfl

@[simp] theorem State.setQuantized_inst (s : State) (f : DataFormat) (q : List Byte) : (s.setQuantized f q).inst = s.inst :=
  rfl
@[simp] theorem State.setQuantized_status (s : State) (f : DataFormat) (q : List Byte) : (s.setQuantized f q).status = { s.status with qlen := BitVec.ofNat 5 f.bpp } :=
  rfl
@[simp] theorem State.setQuantized_cfg (s : State) (f : DataFormat) (q : List Byte) : (s.setQuantized f q).cfg = s.cfg :=
  rfl
@[simp] theorem State.setQuantized_width (s : State) (f : DataFormat) (q : List Byte) : (s.setQuantized f q).width = s.width :=
  rfl
@[simp] theorem State.setQuantized_height (s : State) (f : DataFormat) (q : List Byte) : (s.setQuantized f q).height = s.height :=
  rfl
@[simp] theorem State.setQuantized_row (s : State) (f : DataFormat) (q : List Byte) : (s.setQuantized f q).row = s.row :=
  rfl
@[simp] theorem State.setQuantized_sin (s : State) (f : DataFormat) (q : List Byte) : (s.setQuantized f q).sin = s.sin :=
  rfl
@[simp] theorem State.setQuantized_sout (s : State) (f : DataFormat) (q : List Byte) : (s.setQuantized f q).sout = s.sout :=
  rfl
@[simp] theorem State.setQuantized_qout0 (s : State) (f : DataFormat) (q : List Byte) : (s.setQuantized f q).qout0 = quantLow q :=
  rfl
@[simp] theorem State.setQuantized_qout1 (s : State) (f : DataFormat) (q : List Byte) : (s.setQuantized f q).qout1 = quantHigh q :=
  rfl
@[simp] theorem State.setQuantized_clampCount (s : State) (f : DataFormat) (q : List Byte) : (s.setQuantized f q).clampCount = s.clampCount :=
  rfl
@[simp] theorem State.setQuantized_curOp (s : State) (f : DataFormat) (q : List Byte) : (s.setQuantized f q).curOp = s.curOp :=
  rfl
@[simp] theorem State.setQuantized_inMem (s : State) (f : DataFormat) (q : List Byte) : (s.setQuantized f q).inMem = s.inMem :=
  rfl
@[simp] theorem State.setQuantized_outMem (s : State) (f : DataFormat) (q : List Byte) : (s.setQuantized f q).outMem = s.outMem :=
  rfl
@[simp] theorem State.setQuantized_faultMark (s : State) (f : DataFormat) (q : List Byte) : (s.setQuantized f q).faultMark = s.faultMark :=
  rfl
@[simp] theorem State.setQuantized_outside (s : State) (f : DataFormat) (q : List Byte) : (s.setQuantized f q).outside = s.outside :=
  rfl

@[simp] theorem State.returnRead_inst (s : State) (v : Word) : (s.returnRead v).inst = s.inst := rfl
@[simp] theorem State.returnRead_status (s : State) (v : Word) : (s.returnRead v).status = s.status := rfl
@[simp] theorem State.returnRead_cfg (s : State) (v : Word) : (s.returnRead v).cfg = s.cfg := rfl
@[simp] theorem State.returnRead_width (s : State) (v : Word) : (s.returnRead v).width = s.width := rfl
@[simp] theorem State.returnRead_height (s : State) (v : Word) : (s.returnRead v).height = s.height := rfl
@[simp] theorem State.returnRead_row (s : State) (v : Word) : (s.returnRead v).row = s.row := rfl
@[simp] theorem State.returnRead_sin (s : State) (v : Word) : (s.returnRead v).sin = s.sin := rfl
@[simp] theorem State.returnRead_sout (s : State) (v : Word) : (s.returnRead v).sout = s.sout := rfl
@[simp] theorem State.returnRead_qout0 (s : State) (v : Word) : (s.returnRead v).qout0 = s.qout0 := rfl
@[simp] theorem State.returnRead_qout1 (s : State) (v : Word) : (s.returnRead v).qout1 = s.qout1 := rfl
@[simp] theorem State.returnRead_clampCount (s : State) (v : Word) : (s.returnRead v).clampCount = s.clampCount := rfl
@[simp] theorem State.returnRead_curOp (s : State) (v : Word) : (s.returnRead v).curOp = s.curOp := rfl
@[simp] theorem State.returnRead_inMem (s : State) (v : Word) : (s.returnRead v).inMem = s.inMem := rfl
@[simp] theorem State.returnRead_outMem (s : State) (v : Word) : (s.returnRead v).outMem = s.outMem := rfl
@[simp] theorem State.returnRead_faultMark (s : State) (v : Word) : (s.returnRead v).faultMark = s.faultMark := rfl
@[simp] theorem State.returnRead_outside (s : State) (v : Word) : (s.returnRead v).outside = { s.outside with reads := v :: s.outside.reads, draws := s.outside.draws + 1 } :=
  rfl

@[simp] theorem State.useTurn_inst (s : State) : (s.useTurn).inst = s.inst := rfl
@[simp] theorem State.useTurn_status (s : State) : (s.useTurn).status = s.status := rfl
@[simp] theorem State.useTurn_cfg (s : State) : (s.useTurn).cfg = s.cfg := rfl
@[simp] theorem State.useTurn_width (s : State) : (s.useTurn).width = s.width := rfl
@[simp] theorem State.useTurn_height (s : State) : (s.useTurn).height = s.height := rfl
@[simp] theorem State.useTurn_row (s : State) : (s.useTurn).row = s.row := rfl
@[simp] theorem State.useTurn_sin (s : State) : (s.useTurn).sin = s.sin := rfl
@[simp] theorem State.useTurn_sout (s : State) : (s.useTurn).sout = s.sout := rfl
@[simp] theorem State.useTurn_qout0 (s : State) : (s.useTurn).qout0 = s.qout0 := rfl
@[simp] theorem State.useTurn_qout1 (s : State) : (s.useTurn).qout1 = s.qout1 := rfl
@[simp] theorem State.useTurn_clampCount (s : State) : (s.useTurn).clampCount = s.clampCount := rfl
@[simp] theorem State.useTurn_curOp (s : State) : (s.useTurn).curOp = s.curOp := rfl
@[simp] theorem State.useTurn_inMem (s : State) : (s.useTurn).inMem = s.inMem := rfl
@[simp] theorem State.useTurn_outMem (s : State) : (s.useTurn).outMem = s.outMem := rfl
@[simp] theorem State.useTurn_faultMark (s : State) : (s.useTurn).faultMark = s.faultMark := rfl
@[simp] theorem State.useTurn_outside (s : State) : (s.useTurn).outside = { s.outside with turns := if s.status.busy then s.outside.turns.tail else s.outside.turns } :=
  rfl

@[simp] theorem State.takeOp_inst (s : State) : (s.takeOp).inst = s.inst := rfl
@[simp] theorem State.takeOp_status (s : State) : (s.takeOp).status = s.status := rfl
@[simp] theorem State.takeOp_cfg (s : State) : (s.takeOp).cfg = s.cfg := rfl
@[simp] theorem State.takeOp_width (s : State) : (s.takeOp).width = s.width := rfl
@[simp] theorem State.takeOp_height (s : State) : (s.takeOp).height = s.height := rfl
@[simp] theorem State.takeOp_row (s : State) : (s.takeOp).row = s.row := rfl
@[simp] theorem State.takeOp_sin (s : State) : (s.takeOp).sin = s.sin := rfl
@[simp] theorem State.takeOp_sout (s : State) : (s.takeOp).sout = s.sout := rfl
@[simp] theorem State.takeOp_qout0 (s : State) : (s.takeOp).qout0 = s.qout0 := rfl
@[simp] theorem State.takeOp_qout1 (s : State) : (s.takeOp).qout1 = s.qout1 := rfl
@[simp] theorem State.takeOp_clampCount (s : State) : (s.takeOp).clampCount = s.clampCount := rfl
@[simp] theorem State.takeOp_curOp (s : State) : (s.takeOp).curOp = s.curOp := rfl
@[simp] theorem State.takeOp_inMem (s : State) : (s.takeOp).inMem = s.inMem := rfl
@[simp] theorem State.takeOp_outMem (s : State) : (s.takeOp).outMem = s.outMem := rfl
@[simp] theorem State.takeOp_faultMark (s : State) : (s.takeOp).faultMark = s.faultMark := rfl
@[simp] theorem State.takeOp_outside (s : State) : (s.takeOp).outside = { s.outside with ops := s.outside.ops.tail } :=
  rfl

@[simp] theorem State.pushOp_inst (s : State) (op : HostOp) : (s.pushOp op).inst = s.inst := rfl
@[simp] theorem State.pushOp_status (s : State) (op : HostOp) : (s.pushOp op).status = s.status := rfl
@[simp] theorem State.pushOp_cfg (s : State) (op : HostOp) : (s.pushOp op).cfg = s.cfg := rfl
@[simp] theorem State.pushOp_width (s : State) (op : HostOp) : (s.pushOp op).width = s.width := rfl
@[simp] theorem State.pushOp_height (s : State) (op : HostOp) : (s.pushOp op).height = s.height := rfl
@[simp] theorem State.pushOp_row (s : State) (op : HostOp) : (s.pushOp op).row = s.row := rfl
@[simp] theorem State.pushOp_sin (s : State) (op : HostOp) : (s.pushOp op).sin = s.sin := rfl
@[simp] theorem State.pushOp_sout (s : State) (op : HostOp) : (s.pushOp op).sout = s.sout := rfl
@[simp] theorem State.pushOp_qout0 (s : State) (op : HostOp) : (s.pushOp op).qout0 = s.qout0 := rfl
@[simp] theorem State.pushOp_qout1 (s : State) (op : HostOp) : (s.pushOp op).qout1 = s.qout1 := rfl
@[simp] theorem State.pushOp_clampCount (s : State) (op : HostOp) : (s.pushOp op).clampCount = s.clampCount := rfl
@[simp] theorem State.pushOp_curOp (s : State) (op : HostOp) : (s.pushOp op).curOp = s.curOp := rfl
@[simp] theorem State.pushOp_inMem (s : State) (op : HostOp) : (s.pushOp op).inMem = s.inMem := rfl
@[simp] theorem State.pushOp_outMem (s : State) (op : HostOp) : (s.pushOp op).outMem = s.outMem := rfl
@[simp] theorem State.pushOp_faultMark (s : State) (op : HostOp) : (s.pushOp op).faultMark = s.faultMark := rfl
@[simp] theorem State.pushOp_outside (s : State) (op : HostOp) : (s.pushOp op).outside = { s.outside with ops := op :: s.outside.ops } :=
  rfl

@[simp] theorem Status.issued_busy (t : Status) : (t.issued).busy = true := rfl
@[simp] theorem Status.issued_done (t : Status) : (t.issued).done = false := rfl
@[simp] theorem Status.issued_err (t : Status) : (t.issued).err = false := rfl
@[simp] theorem Status.issued_ovr (t : Status) : (t.issued).ovr = t.ovr := rfl
@[simp] theorem Status.issued_errcode (t : Status) : (t.issued).errcode = 0 := rfl
@[simp] theorem Status.issued_qlen (t : Status) : (t.issued).qlen = t.qlen := rfl

@[simp] theorem Status.finished_busy (t : Status) : (t.finished).busy = false := rfl
@[simp] theorem Status.finished_done (t : Status) : (t.finished).done = true := rfl
@[simp] theorem Status.finished_err (t : Status) : (t.finished).err = t.err := rfl
@[simp] theorem Status.finished_ovr (t : Status) : (t.finished).ovr = t.ovr := rfl
@[simp] theorem Status.finished_errcode (t : Status) : (t.finished).errcode = t.errcode := rfl
@[simp] theorem Status.finished_qlen (t : Status) : (t.finished).qlen = t.qlen := rfl

@[simp] theorem Status.failed_busy (t : Status) (c : ErrorCode) : (t.failed c).busy = false := rfl
@[simp] theorem Status.failed_done (t : Status) (c : ErrorCode) : (t.failed c).done = true := rfl
@[simp] theorem Status.failed_err (t : Status) (c : ErrorCode) : (t.failed c).err = true := rfl
@[simp] theorem Status.failed_ovr (t : Status) (c : ErrorCode) : (t.failed c).ovr = t.ovr := rfl
@[simp] theorem Status.failed_errcode (t : Status) (c : ErrorCode) : (t.failed c).errcode = c.number := rfl
@[simp] theorem Status.failed_qlen (t : Status) (c : ErrorCode) : (t.failed c).qlen = t.qlen := rfl

@[simp] theorem Status.overrun_busy (t : Status) : (t.overrun).busy = t.busy := rfl
@[simp] theorem Status.overrun_done (t : Status) : (t.overrun).done = t.done := rfl
@[simp] theorem Status.overrun_err (t : Status) : (t.overrun).err = t.err := rfl
@[simp] theorem Status.overrun_ovr (t : Status) : (t.overrun).ovr = true := rfl
@[simp] theorem Status.overrun_errcode (t : Status) : (t.overrun).errcode = t.errcode := rfl
@[simp] theorem Status.overrun_qlen (t : Status) : (t.overrun).qlen = t.qlen := rfl

@[simp] theorem Status.clearWrittenOnes_busy (t : Status) (v : Word) : (t.clearWrittenOnes v).busy = t.busy := rfl
@[simp] theorem Status.clearWrittenOnes_done (t : Status) (v : Word) : (t.clearWrittenOnes v).done = (t.done && !v.getLsbD 1) := rfl
@[simp] theorem Status.clearWrittenOnes_err (t : Status) (v : Word) : (t.clearWrittenOnes v).err = (t.err && !v.getLsbD 2) := rfl
@[simp] theorem Status.clearWrittenOnes_ovr (t : Status) (v : Word) : (t.clearWrittenOnes v).ovr = (t.ovr && !v.getLsbD 3) := rfl
@[simp] theorem Status.clearWrittenOnes_errcode (t : Status) (v : Word) : (t.clearWrittenOnes v).errcode = if v.getLsbD 2 then 0 else t.errcode := rfl
@[simp] theorem Status.clearWrittenOnes_qlen (t : Status) (v : Word) : (t.clearWrittenOnes v).qlen = t.qlen := rfl

end Sys2Proof.Machine
end

