-- ==== Sys2Proof/Laws/Commands.lean ====
section
/-! SUPPORT. What the shared operations of the commands can do: completion, the checks, the encodings' lengths, rows. -/

namespace Sys2Proof.Machine

/-! ### Completion -/

@[simp] theorem complete_ok (s t : State) : complete s (.ok t) = .next t.finish := rfl

@[simp] theorem complete_raise (s : State) (c : ErrorCode) : complete s (.error (.raise c)) = .next (s.fail c) := rfl

@[simp] theorem complete_fault (s : State) (f : Fault) : complete s (.error (.fault f)) = .fault f := rfl

/-- Everything a completion that answers next can have done. -/
theorem complete_next {s t : State} {r : Except Stop State} (h : complete s r = .next t) :
    (∃ u, r = .ok u ∧ t = u.finish) ∨ (∃ c, r = .error (.raise c) ∧ t = s.fail c) := by
  rcases r with (c | f) | u
  · exact .inr ⟨c, rfl, by simpa using h.symm⟩
  · simp at h
  · exact .inl ⟨u, rfl, by simpa using h.symm⟩

/-- A completion refuses nothing. -/
theorem complete_ne_refused (s : State) (r : Except Stop State) (x : Refusal) : complete s r ≠ .refused x := by
  rcases r with (c | f) | u <;> simp [complete]

/-- No command refuses. -/
theorem exec_ne_refused (i : Instr) (s : State) (x : Refusal) : exec i s ≠ .refused x := by
  cases i
  · exact complete_ne_refused s (.ok s) x
  · exact complete_ne_refused s (convertRule s) x
  · exact complete_ne_refused s (encodeHeaderRule s) x
  · exact complete_ne_refused s (packRowRule s) x
  · exact complete_ne_refused s (transformRule s) x
  · exact complete_ne_refused s (encodePixelRule s) x

theorem except_bind_ok {ε α β : Type} {x : Except ε α} {f : α → Except ε β} {b : β} :
    (x >>= f) = .ok b ↔ ∃ a, x = .ok a ∧ f a = .ok b := by
  cases x <;> simp [bind, Except.bind]

/-! ### The checks -/

theorem format_eq_ok {s : State} {f : DataFormat} : s.format = .ok f ↔ DataFormat.ofId s.cfg.format = some f := by
  unfold State.format; split <;> simp_all

theorem target_eq_ok {s : State} {c : ColorSpace} : s.target = .ok c ↔ ColorSpace.ofId s.cfg.dstCs = some c := by
  unfold State.target; split <;> simp_all

theorem pair_eq_ok {s : State} {p : ColorPair} :
    s.pair = .ok p ↔ ∃ src dst, ColorSpace.ofId s.cfg.srcCs = some src ∧ ColorSpace.ofId s.cfg.dstCs = some dst ∧
      ColorPair.of src dst = some p := by
  unfold State.pair
  split
  · rename_i src dst h1 h2
    simp only [h1, h2, Option.some.injEq, exists_and_left, exists_eq_left']
    split <;> simp_all
  · rename_i h
    constructor
    · intro h'; simp at h'
    · rintro ⟨src, dst, h1, h2, _⟩
      exact absurd h2 (h src dst h1)

theorem checkDims_eq_ok {s : State} : s.checkDims = .ok () ↔ s.widthNat ≠ 0 ∧ s.heightNat ≠ 0 := by
  unfold State.checkDims
  split
  · simp only [reduceCtorEq, false_iff]; omega
  · simp only [true_iff]; omega

theorem checkCapacity_eq_ok {s : State} {f : DataFormat} :
    s.checkCapacity f = .ok () ↔ s.widthNat * s.heightNat ≤ s.inst.inCapacity ∧
      f.imageSize s.cfg.hdrEn s.widthNat s.heightNat ≤ s.inst.outCapacity := by
  unfold State.checkCapacity
  split
  · simp only [reduceCtorEq, false_iff]; omega
  · split
    · simp only [reduceCtorEq, false_iff]; omega
    · simp only [true_iff]; omega

theorem checkRow_eq_ok {s : State} : s.checkRow = .ok () ↔ s.rowNat < s.heightNat := by
  unfold State.checkRow
  split
  · simp only [reduceCtorEq, false_iff]; omega
  · simp only [true_iff]; omega

/-- A conversion passes its checks exactly when R153's conditions hold. -/
theorem job_eq_ok {s : State} {j : Job} :
    s.job = .ok j ↔ DataFormat.ofId s.cfg.format = some j.fmt ∧ s.pair = .ok j.pair ∧ s.widthNat ≠ 0 ∧
      s.heightNat ≠ 0 ∧ s.widthNat * s.heightNat ≤ s.inst.inCapacity ∧
      j.fmt.imageSize s.cfg.hdrEn s.widthNat s.heightNat ≤ s.inst.outCapacity := by
  unfold State.job
  simp only [except_bind_ok, format_eq_ok]
  constructor
  · rintro ⟨f, hf, p, hp, u, hd, v, hc, h⟩
    obtain ⟨h1, h2⟩ := checkDims_eq_ok.1 hd
    obtain ⟨h3, h4⟩ := checkCapacity_eq_ok.1 hc
    cases h
    exact ⟨hf, hp, h1, h2, h3, h4⟩
  · rintro ⟨hf, hp, h1, h2, h3, h4⟩
    exact ⟨j.fmt, hf, j.pair, hp, (), checkDims_eq_ok.2 ⟨h1, h2⟩, (), checkCapacity_eq_ok.2 ⟨h3, h4⟩, rfl⟩

/-- The pair's target is the space of CFG.DST_CS. -/
theorem pair_target {s : State} {p : ColorPair} (h : s.pair = .ok p) : ColorSpace.ofId s.cfg.dstCs = some p.target := by
  obtain ⟨src, dst, _, h2, h3⟩ := pair_eq_ok.1 h
  rw [h2]
  cases src <;> cases dst <;> simp_all [ColorPair.of] <;> subst h3 <;> rfl

/-! ### Encodings -/

@[simp] theorem Encoded.append_bytes (a b : Encoded) : (a.append b).bytes = a.bytes ++ b.bytes := rfl

@[simp] theorem Encoded.append_events (a b : Encoded) : (a.append b).events = a.events + b.events := rfl

@[simp] theorem qF32_length (v : Word) : (qF32 v).bytes.length = 4 := by simp [qF32]

@[simp] theorem qF16_length (v : Word) : (qF16 v).bytes.length = 2 := by simp [qF16]

@[simp] theorem qFx8_length (v : Word) : (qFx8 v).bytes.length = 1 := rfl

@[simp] theorem qRgbe_length (a b c : Word) : (qRgbe a b c).bytes.length = 4 := by
  simp only [qRgbe]; split <;> rfl

/-- An encoded pixel is BPP bytes (R73). -/
@[simp] theorem pe_length (f : DataFormat) (t : Sample) : (pe f t).bytes.length = f.bpp := by
  cases f <;> simp [pe] <;> rfl

@[simp] theorem headerBytes_length (w h : Nat) (f : DataFormat) (c : ColorSpace) : (headerBytes w h f c).length = 16 := by
  simp [headerBytes]

/-! ### Rows -/

theorem encodePixelAt_eq_ok {s : State} {j : Job} {i : Nat} {q : Encoded} :
    s.encodePixelAt j i = .ok q ↔ ∃ smp, s.readSample i = some smp ∧ q = pe j.fmt (ct s.inst j.pair smp) := by
  unfold State.encodePixelAt
  cases s.readSample i <;> simp [eq_comm]

/-- The encodings of `n` pixels: one per sample, in order (R128). -/
theorem encodePixels_succ {s : State} {j : Job} {n i : Nat} {q : Encoded} :
    s.encodePixels j (n + 1) i = .ok q ↔ ∃ smp rest, s.readSample i = some smp ∧
      s.encodePixels j n (i + 1) = .ok rest ∧ q = (pe j.fmt (ct s.inst j.pair smp)).append rest := by
  simp only [State.encodePixels, except_bind_ok, encodePixelAt_eq_ok]
  constructor
  · rintro ⟨p, ⟨smp, hs, rfl⟩, rest, hr, h⟩
    exact ⟨smp, rest, hs, hr, by cases h; rfl⟩
  · rintro ⟨smp, rest, hs, hr, rfl⟩
    exact ⟨_, ⟨smp, hs, rfl⟩, rest, hr, rfl⟩

theorem encodePixels_length {s : State} {j : Job} {n i : Nat} {q : Encoded} (h : s.encodePixels j n i = .ok q) :
    q.bytes.length = n * j.fmt.bpp := by
  induction n generalizing i q with
  | zero => cases h; simp
  | succ n ih =>
    obtain ⟨smp, rest, _, hr, rfl⟩ := encodePixels_succ.1 h
    simp [ih hr, Nat.succ_mul, Nat.add_comm]

/-- Pixels encode exactly when every sample they read is written (R130). -/
theorem encodePixels_ok_iff {s : State} {j : Job} {n i : Nat} :
    (∃ q, s.encodePixels j n i = .ok q) ↔ ∀ k, k < n → (s.readSample (i + k)).isSome := by
  induction n generalizing i with
  | zero => simp [State.encodePixels]
  | succ n ih =>
    constructor
    · rintro ⟨q, h⟩ k hk
      obtain ⟨smp, rest, hs, hr, _⟩ := encodePixels_succ.1 h
      cases k with
      | zero => simp [hs]
      | succ k =>
        have := ih.1 ⟨rest, hr⟩ k (by omega)
        rwa [show i + (k + 1) = i + 1 + k by omega]
    · intro h
      obtain ⟨smp, hs⟩ := Option.isSome_iff_exists.1 (h 0 (by omega))
      obtain ⟨rest, hr⟩ := (ih (i := i + 1)).2 fun k hk => by
        have := h (k + 1) (by omega)
        rwa [show i + (k + 1) = i + 1 + k by omega] at this
      exact ⟨_, encodePixels_succ.2 ⟨smp, rest, hs, hr, rfl⟩⟩

/-- Pixels that do not encode met an unwritten sample, and nothing else. -/
theorem encodePixels_error {s : State} {j : Job} {n i : Nat} {e : Stop} (h : s.encodePixels j n i = .error e) :
    e = .fault .unwrittenIn := by
  induction n generalizing i with
  | zero => simp [State.encodePixels] at h
  | succ n ih =>
    simp only [State.encodePixels, State.encodePixelAt] at h
    cases hs : s.readSample i with
    | none => rw [hs] at h; cases h; rfl
    | some smp =>
      rw [hs] at h
      cases hr : s.encodePixels j n (i + 1) with
      | error e' => rw [hr] at h; cases h; exact ih hr
      | ok rest => rw [hr] at h; cases h

theorem rowB_eq_ok {s : State} {j : Job} {y : Nat} {q : Encoded} :
    s.rowB j y = .ok q ↔ ∃ p, s.encodePixels j s.widthNat (y * s.widthNat) = .ok p ∧
      q = p.append ⟨List.replicate (j.fmt.pad s.widthNat) 0x00, 0⟩ := by
  simp only [State.rowB, except_bind_ok]
  constructor
  · rintro ⟨p, hp, h⟩; exact ⟨p, hp, by cases h; rfl⟩
  · rintro ⟨p, hp, rfl⟩; exact ⟨p, hp, rfl⟩

/-- A row is `stride` bytes (R126, R128). -/
theorem rowB_length {s : State} {j : Job} {y : Nat} {q : Encoded} (h : s.rowB j y = .ok q) :
    q.bytes.length = j.fmt.stride s.widthNat := by
  obtain ⟨p, hp, rfl⟩ := rowB_eq_ok.1 h
  simp [encodePixels_length hp, DataFormat.stride, DataFormat.rowBytes]

/-- A row that does not encode met an unwritten sample, and nothing else. -/
theorem rowB_error {s : State} {j : Job} {y : Nat} {e : Stop} (h : s.rowB j y = .error e) : e = .fault .unwrittenIn := by
  simp only [State.rowB] at h
  cases hp : s.encodePixels j s.widthNat (y * s.widthNat) with
  | error e' => rw [hp] at h; cases h; exact encodePixels_error hp
  | ok p => rw [hp] at h; cases h

theorem convertRows_succ {s : State} {j : Job} {n y ev : Nat} {m : Memory} {r : Memory × Nat} :
    s.convertRows j (n + 1) y m ev = .ok r ↔ ∃ q, s.rowB j y = .ok q ∧
      s.convertRows j n (y + 1) (m.writeBytes (s.rowAddr j y) q.bytes) (ev + q.events) = .ok r := by
  simp only [State.convertRows, except_bind_ok]

end Sys2Proof.Machine
end

