-- ==== Sys2Proof/Laws/Host.lean ====
section
/-! SUPPORT. What a step can do, said once: nothing, the engine's completion, or one operation of the host. -/

namespace Sys2Proof.Machine

@[simp] theorem settle_next (s t : State) : s.settle (.next t) = .next t := rfl

@[simp] theorem settle_fault (s : State) (f : Fault) : s.settle (.fault f) = .next { s with faultMark := some f } := rfl

@[simp] theorem settle_refused (s : State) (r : Refusal) : s.settle (.refused r) = .refused r := rfl

/-- Everything a settled outcome that answers next can be. -/
theorem settle_eq_next {s t : State} {o : Host.Outcome State Fault Refusal} (h : s.settle o = .next t) :
    o = .next t ∨ ∃ f, o = .fault f ∧ t = { s with faultMark := some f } := by
  cases o with
  | next u => exact .inl (by simpa using h)
  | fault f => exact .inr ⟨f, rfl, by simpa using h.symm⟩
  | refused r => simp at h

theorem resetNext_iff {s : State} : s.resetNext = true ↔ ∃ ops, s.outside.ops = .reset :: ops := by
  cases h : s.outside.ops <;> simp [State.resetNext, h]

/-- A state with the model-fault mark set stops, unless reset is next. -/
theorem step_of_mark {s : State} {f : Fault} (h : s.faultMark = some f) (hr : s.resetNext = false) :
    step s = .fault f := by simp [step, h, markedStep, hr]

/-- Reset, when it is next, leaves a state with the model-fault mark set. -/
theorem step_of_mark_reset {s : State} {f : Fault} (h : s.faultMark = some f) (hr : s.resetNext = true) :
    step s = .next (State.resetOf s.inst s.useTurn.takeOp.outside) := by simp [step, h, markedStep, hr, hostStep]

/-- Everything a step that answers next can have done. -/
theorem step_cases {s t : State} (h : step s = .next t) :
    (s.resetNext = true ∧ t = State.resetOf s.inst s.useTurn.takeOp.outside) ∨
      (s.faultMark = none ∧
        ((s.mover = .idle ∧ t = s) ∨
          (s.mover = .engine ∧ s.useTurn.settle (engineStep s.useTurn) = .next t) ∨
          (∃ op, s.mover = .host op ∧ s.useTurn.takeOp.settle (hostStep op s.useTurn.takeOp) = .next t))) := by
  cases hm : s.faultMark with
  | some f =>
    cases hr : s.resetNext with
    | true => exact .inl ⟨rfl, by simpa [step_of_mark_reset hm hr] using h.symm⟩
    | false => simp [step_of_mark hm hr] at h
  | none =>
    refine .inr ⟨rfl, ?_⟩
    simp only [step, hm, unmarkedStep] at h
    split at h
    · rename_i hv; exact .inl ⟨hv, by simpa using h.symm⟩
    · rename_i hv; exact .inr (.inl ⟨hv, h⟩)
    · rename_i op hv; exact .inr (.inr ⟨op, hv, h⟩)

/-- An accepted access lies within its space and is aligned. -/
theorem accessLegal_iff {s : State} {sp : Space} {a n : Nat} :
    s.accessLegal sp a n = true ↔ s.widthLegal sp n = true ∧ a % n = 0 ∧ a + n ≤ s.spaceBytes sp := by
  simp [State.accessLegal, and_assoc]

end Sys2Proof.Machine
end

