-- ==== Sys2Proof/Laws/PerInstr.lean ====
section
/-! SUPPORT. A statement made for each command: its word has OP in bits 7:0, RSV = 0, and decodes to it (R64, R65). -/

namespace Sys2Proof.Laws.Encoding

/-- The command's word is well-formed, carries its opcode, and decodes to it. -/
def Statement (i : Instr) : Prop :=
  commandWordWellFormed (encode i) = true ∧ opField (encode i) = opcodeOf i ∧ rsvField (encode i) = 0 ∧
    decodeWord (encode i) = .ok i

theorem nop : Statement .nop := ⟨by decide, by decide, by decide, by rfl⟩

theorem convert : Statement .convert := ⟨by decide, by decide, by decide, by rfl⟩

theorem encodeHeader : Statement .encodeHeader := ⟨by decide, by decide, by decide, by rfl⟩

theorem packRow : Statement .packRow := ⟨by decide, by decide, by decide, by rfl⟩

theorem transform : Statement .transform := ⟨by decide, by decide, by decide, by rfl⟩

theorem encodePixel : Statement .encodePixel := ⟨by decide, by decide, by decide, by rfl⟩

end Sys2Proof.Laws.Encoding
end

