-- ==== Sys2Proof/Laws/Pow.lean ====
section
/-! SUPPORT. The exact decision of the power unit: the patterns it reaches are those up to one, and the search finds it. -/

namespace Sys2Proof.Machine

/-- The next magnitude pattern stands for a larger value. -/
theorem unitsOf_lt_succ (frac p : Nat) : unitsOf frac p < unitsOf frac (p + 1) := by
  have hf : 0 < 2 ^ frac := Nat.two_pow_pos frac
  have hr := Nat.mod_lt p hf
  have hp := Nat.div_add_mod p (2 ^ frac)
  generalize hr' : p % 2 ^ frac = r at hr hp
  generalize he' : p / 2 ^ frac = e at hp
  by_cases hc : r + 1 < 2 ^ frac
  · have h1 : (p + 1) / 2 ^ frac = e := by
      rw [← hp, Nat.add_assoc, Nat.mul_add_div hf, Nat.div_eq_of_lt hc, Nat.add_zero]
    have h2 : (p + 1) % 2 ^ frac = r + 1 := by
      rw [← hp, Nat.add_assoc, Nat.mul_add_mod, Nat.mod_eq_of_lt hc]
    unfold unitsOf
    rw [h1, h2, he', hr']
    split
    · omega
    · exact Nat.mul_lt_mul_of_pos_right (by omega) (Nat.two_pow_pos _)
  · have hp1 : p + 1 = 2 ^ frac * (e + 1) := by rw [Nat.mul_succ]; omega
    have h1 : (p + 1) / 2 ^ frac = e + 1 := by rw [hp1, Nat.mul_div_cancel_left _ hf]
    have h2 : (p + 1) % 2 ^ frac = 0 := by rw [hp1, Nat.mul_mod_right]
    unfold unitsOf
    rw [h1, h2, he', hr', if_neg (by omega : ¬e + 1 = 0), Nat.add_sub_cancel, Nat.add_zero]
    split
    · rename_i h0; subst h0; omega
    · obtain ⟨k, rfl⟩ : ∃ k, e = k + 1 := ⟨e - 1, by omega⟩
      rw [Nat.add_sub_cancel, Nat.pow_succ 2 k, Nat.mul_comm (2 ^ k) 2, ← Nat.mul_assoc]
      exact Nat.mul_lt_mul_of_pos_right (by omega) (Nat.two_pow_pos _)

/-- A higher magnitude pattern stands for a larger value. -/
theorem unitsOf_strictMono (frac : Nat) : StrictMono (unitsOf frac) := strictMono_nat_of_lt_succ (unitsOf_lt_succ frac)

theorem powDen_pos (y : Word) : 0 < powDen y :=
  Nat.div_pos (Nat.le_of_dvd (Nat.two_pow_pos _) (Nat.gcd_dvd_right _ _))
    (Nat.gcd_pos_of_pos_right _ (Nat.two_pow_pos _))

/-- What does not fall below a number of halves of a unit lies above every smaller number. -/
theorem powCompare_gt {x y : Word} {m k : Nat} (hx : F64.units x ≠ 0) (hk : k < m) (h : powCompare x y m ≠ .lt) :
    powCompare x y k = .gt := by
  have hpow : k ^ powDen y < m ^ powDen y := Nat.pow_lt_pow_left hk (powDen_pos y).ne'
  have hu : 0 < F64.units x ^ powNum y := Nat.pow_pos (by omega)
  have ht : 0 < 2 ^ (unitExp * powNum y) := Nat.two_pow_pos _
  cases hs : F64.sign y <;> simp only [powCompare, hs, Bool.false_eq_true, if_true, if_false] at h ⊢ <;>
    rw [ne_eq, Nat.compare_eq_lt, Nat.not_lt] at h <;> rw [Nat.compare_eq_gt]
  · exact Nat.lt_of_lt_of_le (Nat.mul_lt_mul_of_pos_right hpow ht) h
  · exact Nat.lt_of_lt_of_le (Nat.mul_lt_mul_of_pos_right hpow hu) h

/-- The patterns reached are closed downwards. -/
theorem powReaches_of_le {x y : Word} {p q : Nat} (hx : F64.units x ≠ 0) (hpq : p ≤ q) (h : powReaches x y q = true) :
    powReaches x y p = true := by
  rcases Nat.eq_or_lt_of_le hpq with rfl | hlt
  · exact h
  · have hm : unitsOf 52 p + unitsOf 52 (p + 1) < unitsOf 52 q + unitsOf 52 (q + 1) := by
      have h1 := unitsOf_strictMono 52 hlt
      have h2 := unitsOf_strictMono 52 (Nat.succ_lt_succ hlt)
      simp only [Nat.succ_eq_add_one] at h2
      omega
    have hq : powCompare x y (unitsOf 52 q + unitsOf 52 (q + 1)) ≠ .lt := by
      intro hc; simp [powReaches, hc] at h
    simp [powReaches, powCompare_gt hx hm hq]

/-- The search ends at a pattern that is reached and whose next one is not, or is past the pattern of an infinity. -/
theorem powSearch_spec {x y : Word} (k p : Nat) (hp : p ≤ F64.infMag)
    (hlow : p = 0 ∨ powReaches x y (p - 1) = true)
    (hhigh : p + 2 ^ k > F64.infMag ∨ powReaches x y (p + 2 ^ k - 1) = false) :
    powSearch x y k p ≤ F64.infMag ∧ (powSearch x y k p = 0 ∨ powReaches x y (powSearch x y k p - 1) = true) ∧
      (powSearch x y k p = F64.infMag ∨ powReaches x y (powSearch x y k p) = false) := by
  induction k generalizing p with
  | zero =>
    refine ⟨hp, hlow, ?_⟩
    rcases hhigh with h | h
    · left; simp only [powSearch, Nat.pow_zero] at *; omega
    · right; simpa [powSearch] using h
  | succ k ih =>
    simp only [powSearch]
    split
    · rename_i h
      simp only [Bool.and_eq_true, decide_eq_true_eq] at h
      refine ih _ h.1 (.inr h.2) ?_
      rwa [show p + 2 ^ k + 2 ^ k = p + 2 ^ (k + 1) by rw [Nat.pow_succ]; omega]
    · rename_i h
      refine ih p hp hlow ?_
      simp only [Bool.and_eq_true, decide_eq_true_eq, not_and, Bool.not_eq_true] at h
      by_cases hq : p + 2 ^ k ≤ F64.infMag
      · exact .inr (h hq)
      · exact .inl (by omega)

/-- The exact power: the midpoint below its pattern is reached, the one above it is not. -/
theorem powExact_nearest (x y : Word) :
    ∃ p, powExact x y = F64.ofSignMag false p ∧ p ≤ F64.infMag ∧ (p = 0 ∨ powReaches x y (p - 1) = true) ∧
      (p = F64.infMag ∨ powReaches x y p = false) :=
  ⟨_, rfl, powSearch_spec 63 0 (Nat.zero_le _) (.inl rfl) (.inl (by decide))⟩

end Sys2Proof.Machine
end

