-- ==== Sys2Proof/Tests/Slice0.lean ====
section
/-! SUPPORT. Tests of the model on the spec's own words and vectors (95_test_vectors.md), and for every statement with
hypotheses a state that meets them. -/

namespace Sys2Proof.Tests

open Sys2Proof Sys2Proof.Machine

/-! ### Helpers -/

/-- 1.0, 0.5, −2.0, 0.25 and 2.5 as binary64 patterns. -/
def f1 : Word := 0x3FF0000000000000
def fHalf : Word := 0x3FE0000000000000
def fMinus2 : Word := 0xC000000000000000
def fQuarter : Word := 0x3FD0000000000000
def fInf : Word := 0x7FF0000000000000
def fMinusInf : Word := 0xFFF0000000000000
/-- A signalling NaN pattern with a payload. -/
def fNaN : Word := 0x7FF4000000000000

/-- Four samples and 32 bytes. -/
def tiny : Instance := { defaultInst with inCapacity := 4, outCapacity := 32 }

/-- `s` with the CFG word `c` and a `w × h` image. -/
def shaped (s : State) (c : Word) (w h : BitVec 32) : State := { s with cfg := Cfg.ofWord c, width := w, height := h }

/-- IN with the given R lanes, the other lanes +0.0. -/
def redPixels : Nat → List Word → Memory
  | _, [] => []
  | i, r :: rs => Memory.writeBytes (redPixels (i + 1) rs) (32 * i) (bytesLE 8 r.toNat ++ List.replicate 24 0x00)

/-- A block with the CFG word `c`, a `w × h` image and these R lanes, in a `tiny` instance. -/
def image (c : Word) (w h : BitVec 32) (rs : List Word) : State :=
  { shaped (State.resetOf tiny Outside.empty) c w h with inMem := redPixels 0 rs }

/-- After reset with the CFG word `c` and the sample `x`. -/
def single (c : Word) (x : Sample) : State := { State.reset with cfg := Cfg.ofWord c, sin := x }

/-- The next state of an outcome, where there is one. -/
def nextOf : Host.Outcome State Fault Refusal → Option State
  | .next t => some t
  | .fault _ => none
  | .refused _ => none

/-- `n` bytes of OUT from `a` up. -/
def outBytes (o : Host.Outcome State Fault Refusal) (a n : Nat) : Option (List Byte) :=
  (nextOf o).bind fun t => t.outMem.readBytes a n

/-- The word of STATUS. -/
def statusOf (o : Host.Outcome State Fault Refusal) : Option Word := (nextOf o).map fun t => t.regValue .status

/-- A block with a command of `i` in execution. -/
def busyWith (i : Instr) (o : Outside) : State := (State.resetOf tiny o).issue (encode i)

/-! ### Well-formedness -/

/-- R66: OP = 0x06. -/
theorem test_opcode_6_is_ill_formed : commandWordWellFormed 0x0000000000000006 = false := by decide

/-- R66: RSV ≠ 0, the word of the spec's vector. -/
theorem test_reserved_bit_is_ill_formed : commandWordWellFormed 0x0000000000000101 = false := by decide

theorem test_opcode_5_is_well_formed : commandWordWellFormed 0x0000000000000005 = true := by decide

/-- R172, each bound. -/
theorem test_empty_input_memory_is_ill_formed : ({ defaultInst with inCapacity := 0 }).wellFormed = false := by decide

theorem test_output_memory_of_15_bytes_is_ill_formed :
    ({ defaultInst with outCapacity := 15 }).wellFormed = false := by decide

theorem test_output_memory_of_2_to_64_bytes_is_ill_formed :
    ({ defaultInst with outCapacity := 2 ^ 64 }).wellFormed = false := by decide

theorem test_default_instance_is_well_formed : defaultInst.wellFormed = true := by decide

/-! ### Decoding: the words of R65, and R66's illegal ones -/

theorem test_decode_nop : decodeTableWord 64 0x0000000000000000 = some .nop := by decide
theorem test_decode_convert : decodeTableWord 64 0x0000000000000001 = some .convert := by decide
theorem test_decode_encode_header : decodeTableWord 64 0x0000000000000002 = some .encodeHeader := by decide
theorem test_decode_pack_row : decodeTableWord 64 0x0000000000000003 = some .packRow := by decide
theorem test_decode_transform : decodeTableWord 64 0x0000000000000004 = some .transform := by decide
theorem test_decode_encode_pixel : decodeTableWord 64 0x0000000000000005 = some .encodePixel := by decide
theorem test_decode_opcode_6 : decodeTableWord 64 0x0000000000000006 = none := by decide
theorem test_decode_opcode_ff : decodeTableWord 64 0x00000000000000FF = none := by decide
theorem test_decode_reserved_bit_8 : decodeTableWord 64 0x0000000000000101 = none := by decide
theorem test_decode_reserved_bit_63 : decodeTableWord 64 0x8000000000000001 = none := by decide

/-- R49: the word is carried little-endian. -/
theorem test_decode_bytes_little_endian :
    decodeBytes [0x03, 0, 0, 0, 0, 0, 0, 0, 0xAA] = .ok (.packRow, [0xAA]) := by decide

/-! ### The commands, on the spec's vectors -/

/-- R140's example. -/
theorem test_nop_status : statusOf (step (State.reset.withFetchWord 64 0)) = some 0x0000000000000002 := by decide

/-- R170's vector. -/
theorem test_convert_after_reset : statusOf (step (State.reset.withFetchWord 64 1)) = some 0x0000000000000506 := by
  decide

/-- W1 and R141's example: R8, LinearSRGB to itself, 2 × 1, R = (0.0, 1.0). -/
theorem test_convert_end_to_end : outBytes (exec .convert (image 0x337 2 1 [0, f1])) 0 4 =
    some [0x00, 0xFF, 0x00, 0x00] := by decide +kernel

/-- R137's example. -/
theorem test_encode_header : outBytes (exec .encodeHeader (shaped State.reset 0x337 2 1)) 0 16 =
    some [0x02, 0, 0, 0, 0x01, 0, 0, 0, 0x07, 0, 0x03, 0, 0, 0, 0, 0] := by decide

/-- The last vector of R137: SRC_CS = 0 does not stop it. -/
theorem test_encode_header_ignores_source : statusOf (exec .encodeHeader (shaped State.reset 0x307 2 1)) =
    some 0x0000000000000002 := by decide

/-- R131, its example cut to two rows of two pixels, with the header's 16 bytes left out of the way. -/
theorem test_pack_row_after_header : outBytes (exec .packRow { image 0x10333 2 2 [0, 0, f1, fMinus2] with row := 1 }) 20 4 =
    some [0x00, 0x3C, 0x00, 0xC0] := by decide +kernel

/-- R131: ROW = HEIGHT. -/
theorem test_pack_row_range : statusOf (exec .packRow { image 0x333 2 2 [] with row := 2 }) =
    some 0x0000000000000806 := by decide

/-- R98's example. -/
theorem test_transform_matrix :
    (nextOf (exec .transform (single 0x130 ⟨f1, 0, 0, fHalf⟩))).map (fun t => t.sout) =
      some ⟨0x3FDA64C2F837B4A2, 0x3FCB367A0F9096BC, 0x3F93C36113404EA5, 0x3FE0000000000000⟩ := by decide +kernel

/-- The sRGB row of the TRANSFORM table: SIN = (0.5, 0.2, 0.8, 0.3), CFG 0x320, through the power unit. -/
theorem test_transform_gamma :
    (nextOf (exec .transform (single 0x320
      ⟨0x3FE0000000000000, 0x3FC999999999999A, 0x3FE999999999999A, 0x3FD3333333333333⟩))).map (fun t => t.sout) =
      some ⟨0x3FCB65B3392F5354, 0x3FA0F31BA386FF26, 0x3FE3528DB61A0F73, 0x3FD3333333333333⟩ := by decide +kernel

/-- R121's vector: RGBE8. -/
theorem test_encode_pixel_rgbe :
    (nextOf (exec .encodePixel (single 0x009 ⟨f1, fHalf, fQuarter, 0⟩))).map (fun t => (t.qout0, t.regValue .status)) =
      some (0x0000000081204080, 0x0000000000040002) := by decide +kernel

/-- R121's vector: RGBA32F. -/
theorem test_encode_pixel_rgba32f :
    (nextOf (exec .encodePixel (single 0x002 ⟨f1, fHalf, fMinus2, fQuarter⟩))).map
      (fun t => (t.qout0, t.qout1, t.regValue .status)) =
      some (0x3F0000003F800000, 0x3E800000C0000000, 0x0000000000100002) := by decide +kernel

/-! ### The units, on the spec's vectors -/

/-- R82: correctly rounded at an exact tie, (2^27 − 1)^2 = 2^54 − 2^28 + 1; to an exponent of 2^200; and at a tie with
the smallest subnormal, 2^-1075. -/
theorem test_power_corners :
    pow64 .correctlyRounded 0x419FFFFFFC000000 0x4000000000000000 = 0x434FFFFFF8000000 ∧
    pow64 .correctlyRounded 0x3FF0000000000000 0x4C70000000000000 = 0x3FF0000000000000 ∧
    pow64 .correctlyRounded 0x4000000000000000 0xC090CC0000000000 = 0x0000000000000000 := by decide +kernel

/-- R105: 3 × 2^-26 rounds to the smallest subnormal, and 65519 is an event. -/
theorem test_float16_corners : qF16 0x3E68000000000000 = ⟨[0x01, 0x00], 0⟩ ∧ qF16 0x40EFFDE000000000 = ⟨[0xFF, 0x7B], 1⟩ := by
  decide +kernel

/-- R104: 2^-150 is a tie, and the sign of zero is kept. -/
theorem test_float32_corners : qF32 0x3690000000000000 = ⟨[0, 0, 0, 0], 0⟩ ∧
    qF32 0x8000000000000000 = ⟨[0, 0, 0, 0x80], 0⟩ := by decide +kernel

/-- R106: a tie goes up. -/
theorem test_fixed8_tie : qFx8 0x3F60101010101010 = ⟨[0x01], 0⟩ := by decide +kernel

/-- R109: the vector (−1, 2, 0.3). -/
theorem test_rgbe_truncates : qRgbe 0xBFF0000000000000 0x4000000000000000 0x3FD3333333333333 =
    ⟨[0x00, 0x80, 0x13, 0x82], 1⟩ := by decide +kernel

/-- R109: 2^-128 is encoded and 2^-129 underflows, with no event. -/
theorem test_rgbe_underflow : qRgbe 0x37F0000000000000 0 0 = ⟨[0x80, 0, 0, 0x01], 0⟩ ∧
    qRgbe 0x37E0000000000000 0 0 = ⟨[0, 0, 0, 0], 0⟩ := by decide +kernel

/-- R28, R29: the edge values of the stride table. -/
theorem test_size_registers_at_the_edge :
    (shaped State.reset 0x10002 0xFFFFFFFF 0xFFFFFFFF).regValue .outSize = 0xFFFFFFFFFFFFFFFF ∧
    (shaped State.reset 0x10002 0xFFFFFFFF 0xFFFFFFFF).regValue .rowStride = 0xFFFFFFFF0 := by decide

/-- R59, W1 of program P4: CLRST clears the report. -/
theorem test_clrst : statusOf (hostStep opClrst (State.reset.fail .csMismatch)) = some 0 := by decide

/-! ### Witnesses of the statements' hypotheses -/

/-- CommandWriteIssuesOrOverruns: an idle block; words at OP = 5, OP = 6 and RSV = 1; and a busy block. -/
theorem witness_issue : State.reset.status.busy = false ∧
    (rsvField 0x5 = 0 ∧ opField 0x5 = opcodeOf .encodePixel) ∧ 0x05 < (opField 0x6).toNat ∧ rsvField 0x101 ≠ 0 ∧
    (busyWith .nop Outside.empty).status.busy = true := by decide

/-- IllegalCommandReportsIllegalCmd. -/
theorem witness_illegal : (State.reset.issue 0x6).curOp = .illegal ∧ (State.reset.issue 0x101).curOp = .illegal := by
  decide

/-- ErrorReportIsPrecise, EngineWritesOnlyItsResults, InterruptFollowsDone: a completion of each command, with
interrupts enabled, and one with an error. -/
theorem witness_completions :
    (nextOf (exec .nop (single 0x20000 Sample.zero))).isSome = true ∧
    (nextOf (exec .transform (single 0x20000 Sample.zero))).isSome = true ∧
    (nextOf (exec .encodeHeader (shaped State.reset 0x20000 1 1))).isSome = true ∧
    (nextOf (exec .convert (single 0x20000 Sample.zero))).isSome = true ∧
    (single 0x20000 Sample.zero).cfg.irqEn = true := by decide

theorem witness_encode_pixel_completes :
    (nextOf (exec .encodePixel (single 0x20009 ⟨f1, 0, 0, 0⟩))).isSome = true := by decide +kernel

theorem witness_row_and_image_complete :
    (nextOf (exec .packRow (image 0x20337 1 1 [f1]))).isSome = true ∧
    (nextOf (exec .convert (image 0x20337 1 1 [f1]))).isSome = true := by decide +kernel

/-- ConversionReportsFirstFailingCheck, its first two clauses at their boundaries: FORMAT 10; SRC_CS 4; DST_CS 4. -/
theorem witness_format_and_space_checks :
    9 < (shaped State.reset 0x00A 1 1).cfg.format.toNat ∧
    (DataFormat.ofId (shaped State.reset 0x349 1 1).cfg.format = some .rgbe8 ∧
      3 < (shaped State.reset 0x349 1 1).cfg.srcCs.toNat) ∧
    (DataFormat.ofId (shaped State.reset 0x439 1 1).cfg.format = some .rgbe8 ∧
      3 < (shaped State.reset 0x439 1 1).cfg.dstCs.toNat) := by decide

/-- Its third clause: NonColor to LinearSRGB; and the reverse. -/
theorem witness_mismatch :
    ¬((shaped State.reset 0x309 1 1).cfg.srcCs = 0 ↔ (shaped State.reset 0x309 1 1).cfg.dstCs = 0) ∧
    ¬((shaped State.reset 0x039 1 1).cfg.srcCs = 0 ↔ (shaped State.reset 0x039 1 1).cfg.dstCs = 0) ∧
    (shaped State.reset 0x309 1 1).cfg.dstCs.toNat ≤ 3 ∧ (shaped State.reset 0x039 1 1).cfg.srcCs.toNat ≤ 3 := by decide

/-- Its clauses on the image: no width; no height; five samples of four; 48 bytes of 32. -/
theorem witness_dimension_and_capacity_checks :
    ((image 0x339 0 1 []).width = 0 ∧ (image 0x339 1 0 []).height = 0) ∧
    ((image 0x339 5 1 []).inst.inCapacity < (image 0x339 5 1 []).width.toNat * (image 0x339 5 1 []).height.toNat) ∧
    ((image 0x332 3 1 []).width.toNat * (image 0x332 3 1 []).height.toNat ≤ (image 0x332 3 1 []).inst.inCapacity ∧
      (image 0x332 3 1 []).inst.outCapacity <
        DataFormat.imageSize .rgba32f (image 0x332 3 1 []).cfg.hdrEn (image 0x332 3 1 []).width.toNat
          (image 0x332 3 1 []).height.toNat) := by decide

/-- Its last clause: an image that just fits, and ROW = HEIGHT. -/
theorem witness_row_check :
    (image 0x332 2 1 []).width.toNat * (image 0x332 2 1 []).height.toNat ≤ (image 0x332 2 1 []).inst.inCapacity ∧
    DataFormat.imageSize .rgba32f (image 0x332 2 1 []).cfg.hdrEn (image 0x332 2 1 []).width.toNat
      (image 0x332 2 1 []).height.toNat = (image 0x332 2 1 []).inst.outCapacity ∧
    (image 0x332 2 1 []).height.toNat ≤ ({ image 0x332 2 1 [] with row := 1 } : State).row.toNat := by decide

/-- SingleUnitCommandsReportFirstFailingCheck: FORMAT 10; DST_CS 4; no dimensions; and TRANSFORM's two checks. -/
theorem witness_single_unit_checks :
    9 < (single 0x00A Sample.zero).cfg.format.toNat ∧
    ((single 0x409 Sample.zero).cfg.format.toNat ≤ 9 ∧ 3 < (single 0x409 Sample.zero).cfg.dstCs.toNat) ∧
    ((single 0x309 Sample.zero).cfg.format.toNat ≤ 9 ∧ (single 0x309 Sample.zero).cfg.dstCs.toNat ≤ 3 ∧
      (single 0x309 Sample.zero).width = 0) ∧
    3 < (single 0x04F Sample.zero).cfg.srcCs.toNat ∧
    ((single 0x03F Sample.zero).cfg.srcCs.toNat ≤ 3 ∧
      ¬((single 0x03F Sample.zero).cfg.srcCs = 0 ↔ (single 0x03F Sample.zero).cfg.dstCs = 0)) := by decide

/-- NopOnlyCompletes with IRQ_EN = 1. -/
theorem witness_interrupt_enabled : (single 0x2000F Sample.zero).cfg.irqEn = true := by decide

/-- TransformCopiesOnEqualSpaces and TransformKeepsAlphaAndCanonicalisesNaN: spaces 0 and 3, and a pair that differs. -/
theorem witness_equal_spaces :
    ((single 0x33F ⟨fNaN, 0, 0, 0⟩).cfg.srcCs.toNat ≤ 3 ∧
      (single 0x33F ⟨fNaN, 0, 0, 0⟩).cfg.dstCs = (single 0x33F ⟨fNaN, 0, 0, 0⟩).cfg.srcCs) ∧
    (single 0x000 Sample.zero).cfg.dstCs = (single 0x000 Sample.zero).cfg.srcCs ∧
    ((single 0x130 ⟨fNaN, 0, 0, 0⟩).cfg.srcCs ≠ (single 0x130 ⟨fNaN, 0, 0, 0⟩).cfg.dstCs ∧
      ((single 0x130 ⟨fNaN, 0, 0, 0⟩).cfg.srcCs = 0 ↔ (single 0x130 ⟨fNaN, 0, 0, 0⟩).cfg.dstCs = 0)) := by decide

/-- TransformKeepsAlphaAndCanonicalisesNaN: a lane of SOUT that is a NaN. -/
theorem witness_nan_lane :
    ((nextOf (exec .transform (single 0x130 ⟨fNaN, 0, 0, fNaN⟩))).map fun t => F64.isNaN t.sout.r) = some true := by
  decide +kernel

/-- TransformAppliesTransferFunction and TransformAppliesMatrix: the six pairs, and the evaluation order. -/
theorem witness_six_pairs :
    ((single 0x320 Sample.zero).cfg.srcCs = 2 ∧ (single 0x320 Sample.zero).cfg.dstCs = 3) ∧
    ((single 0x230 Sample.zero).cfg.srcCs = 3 ∧ (single 0x230 Sample.zero).cfg.dstCs = 2) ∧
    ((single 0x130 Sample.zero).cfg.srcCs = 3 ∧ (single 0x130 Sample.zero).cfg.dstCs = 1) ∧
    ((single 0x310 Sample.zero).cfg.srcCs = 1 ∧ (single 0x310 Sample.zero).cfg.dstCs = 3) ∧
    ((single 0x120 Sample.zero).cfg.srcCs = 2 ∧ (single 0x120 Sample.zero).cfg.dstCs = 1) ∧
    ((single 0x210 Sample.zero).cfg.srcCs = 1 ∧ (single 0x210 Sample.zero).cfg.dstCs = 2) := by decide

theorem witness_matrix_order : ∃ dot : MatrixRow → Word → Word → Word → Word,
    ∀ m c0 c1 c2, dot m c0 c1 c2 = F64.add (F64.add (F64.mul m.c0 c0) (F64.mul m.c1 c1)) (F64.mul m.c2 c2) :=
  ⟨dotRow, fun _ _ _ _ => rfl⟩

/-- TransferFunctionSegmentsAndCorners and PowerUnitMeetsItsAssumptions. -/
theorem witness_float_classes : defaultInst.tf = defaultTransfer ∧ F64.isNaN fNaN = true ∧
    (F64.le defaultInst.tf.k0 defaultInst.tf.k0 = true ∧ F64.le 0x3FA4B5DCC63F1413 defaultInst.tf.k0 = false ∧
      F64.le defaultInst.tf.l0 defaultInst.tf.l0 = true ∧ F64.le fNaN defaultInst.tf.l0 = false) ∧
    F64.lt 0x0000000000000000 0x0000000000000001 = true ∧
    (F64.isFinite 0x0000000000000001 = true ∧ F64.isFinite 0x7FEFFFFFFFFFFFFF = true) := by decide

/-- EncodePixelFillsResultRegisters: the first and the last format, with a clamp counter and without. -/
theorem witness_encode_pixel :
    DataFormat.ofId (single 0x000 Sample.zero).cfg.format = some .r32f ∧
    DataFormat.ofId (single 0x009 Sample.zero).cfg.format = some .rgbe8 ∧
    (single 0x009 Sample.zero).inst.hasClampCounter = true ∧
    ({ single 0x009 Sample.zero with inst := { tiny with hasClampCounter := false } } : State).inst.hasClampCounter =
      false := by decide

/-- TransformKeepsAlphaAndCanonicalisesNaN: a pair of spaces and what it is called. -/
theorem witness_pair : ColorSpace.ofId (single 0x130 Sample.zero).cfg.srcCs = some .linearSrgb ∧
    ColorSpace.ofId (single 0x130 Sample.zero).cfg.dstCs = some .ciexyz ∧
    ColorPair.of .linearSrgb .ciexyz = some .linearToXyz := by decide

/-- PowerUnitMeetsItsAssumptions: the default unit at a finite exponent. -/
theorem witness_default_power : isFinitePositive f1 = true ∧ F64.isFinite f1 = true := by decide

/-- EncodeHeaderWritesSixteenBytes. -/
theorem witness_encode_header :
    DataFormat.ofId (shaped State.reset 0x309 1 0xFFFFFFFF).cfg.format = some .rgbe8 ∧
    ColorSpace.ofId (shaped State.reset 0x309 1 0xFFFFFFFF).cfg.dstCs = some .linearSrgb ∧
    (shaped State.reset 0x309 1 0xFFFFFFFF).width ≠ 0 ∧ (shaped State.reset 0x309 1 0xFFFFFFFF).height ≠ 0 := by decide

/-- A 1 × 2 image in R8 with a header and a padded row, of which ROW is the last: what CONVERT and PACK_ROW need. -/
def smallImage : State := { image 0x10337 1 2 [f1, fMinus2] with row := 1 }

/-- PackRowWritesItsRow and ConvertWritesTheImage. -/
theorem witness_convertible : smallImage.Convertible ⟨.r8, .linearToLinear⟩ where
  fmt := by decide
  pair := ⟨.linearSrgb, .linearSrgb, by decide, by decide, by decide⟩
  width := by decide
  height := by decide
  input := by decide
  output := by decide

theorem witness_row_in_range : smallImage.row.toNat < smallImage.height.toNat := by decide

theorem witness_samples_written : smallImage.samplesWritten 0 (smallImage.width.toNat * smallImage.height.toNat) ∧
    smallImage.samplesWritten (smallImage.row.toNat * smallImage.width.toNat) smallImage.width.toNat := by
  unfold State.samplesWritten; decide

theorem witness_sample : (smallImage.readSample 1).isSome = true ∧ 0 < DataFormat.bpp .r8 ∧
    0 < DataFormat.pad .r8 smallImage.width.toNat ∧ smallImage.cfg.hdrEn = true := by decide

/-- RowsPackedInAnyOrderEqualConvert: the premises, with the rows in decreasing order. -/
theorem witness_rows_in_any_order :
    (nextOf (exec .convert smallImage)).isSome = true ∧ (nextOf (exec .encodeHeader smallImage)).isSome = true ∧
    ([(1 : BitVec 32), 0].all fun y => decide (y.toNat < smallImage.height.toNat)) = true ∧
    ((List.range smallImage.height.toNat).all fun n => [(1 : BitVec 32), 0].any fun y => decide (y.toNat = n)) =
      true := by decide +kernel

/-- The same without a header. -/
theorem witness_rows_without_header :
    (shaped smallImage 0x00337 1 2).cfg.hdrEn = false ∧ (shaped smallImage 0x00337 1 2).Convertible ⟨.r8, .linearToLinear⟩ ∧
    (nextOf (exec .convert (shaped smallImage 0x00337 1 2))).isSome = true :=
  ⟨by decide, ⟨by decide, ⟨.linearSrgb, .linearSrgb, by decide, by decide, by decide⟩, by decide, by decide, by decide,
    by decide⟩, by decide +kernel⟩

/-- ConvertIsStateless: a state that differs in all a CONVERT does not read. -/
def otherState : State :=
  { smallImage with sin := ⟨1, 2, 3, 4⟩, qout0 := 7, row := 9, outMem := [(3, 0x55)], clampCount := 5 }

theorem witness_stateless : otherState.inst = smallImage.inst ∧ otherState.cfg.format = smallImage.cfg.format ∧
    otherState.width = smallImage.width ∧ otherState.height = smallImage.height ∧
    otherState.readSample 0 = smallImage.readSample 0 ∧ otherState.readSample 1 = smallImage.readSample 1 := by decide

/-- UnwrittenSampleFaults: the same image with nothing written. -/
def unwrittenImage : State := { smallImage with inMem := [] }

theorem witness_unwritten : unwrittenImage.Convertible ⟨.r8, .linearToLinear⟩ ∧
    ¬unwrittenImage.samplesWritten 0 (unwrittenImage.width.toNat * unwrittenImage.height.toNat) ∧
    ¬unwrittenImage.samplesWritten (unwrittenImage.row.toNat * unwrittenImage.width.toNat) unwrittenImage.width.toNat ∧
    unwrittenImage.row.toNat < unwrittenImage.height.toNat :=
  ⟨⟨by decide, ⟨.linearSrgb, .linearSrgb, by decide, by decide, by decide⟩, by decide, by decide, by decide, by decide⟩,
    by unfold State.samplesWritten; decide, by unfold State.samplesWritten; decide, by decide⟩

/-- ArithmeticFollowsIeee754: a tie, between 2 and 3 in units with one fraction bit, and what it rounds to. -/
theorem witness_rounding : (0 < 1 ∧ 0 < 2) ∧ roundMag 1 5 2 = 2 ∧ unitsOf 1 2 = 2 ∧ unitsOf 1 3 = 3 := by decide

/-- FloatPatternsAndExactWidening and Binary32LaneSurvivesFloat32Quantizer: the last finite pattern, infinity and the first NaN. -/
theorem witness_binary32_classes : (0xFF7FFFFF#32).toNat % 2 ^ 31 < 0x7F800000 ∧
    (0xFF800000#32).toNat % 2 ^ 31 = 0x7F800000 ∧ 0x7F800000 < (0xFF800001#32).toNat % 2 ^ 31 := by decide

/-- FloatQuantizersClamp: the values beside each bound. -/
theorem witness_float_bounds : F64.isNaN fNaN = true ∧
    F64.lt 0x47EFFFFFE0000000 0x47EFFFFFE0000001 = true ∧ F64.lt 0xC7EFFFFFE0000001 0xC7EFFFFFE0000000 = true ∧
    (F64.le 0xC7EFFFFFE0000000 0x47EFFFFFE0000000 = true ∧ F64.le 0x47EFFFFFE0000000 0x47EFFFFFE0000000 = true) ∧
    F64.lt 0x40EFFC0000000000 0x40EFFC0000000001 = true ∧ F64.lt 0xC0EFFC0000000001 0xC0EFFC0000000000 = true ∧
    F64.le 0xC0EFFC0000000000 0x40EFFC0000000000 = true := by decide

/-- FloatOutputsAreFinite: the last channel of each float kind. -/
theorem witness_float_channels : (3 < DataFormat.channels .rgba32f ∧ DataFormat.kind .rgba32f = .float32) ∧
    3 < DataFormat.channels .rgba16f ∧ DataFormat.kind .rgba16f = .float16 := by decide

/-- ClampingBoundaryLaw: beside 0 and 1, and the two zeros. -/
theorem witness_unit_bounds : F64.lt 0x3FF0000000000000 0x3FF0000000000001 = true ∧
    F64.lt 0x8000000000000001 0x0000000000000000 = true ∧ F64.eq 0x8000000000000000 0 = true ∧
    F64.eq 0x0000000000000000 0 = true := by decide

/-- FixedPointRoundsHalfUp: a NaN, both ends and −0.0. -/
theorem witness_unit_interval : F64.isNaN fNaN = true ∧ F64.le 0x0000000000000000 0x3FF0000000000000 = true ∧
    F64.le 0x3FF0000000000000 0x3FF0000000000000 = true ∧ F64.le 0x0000000000000000 0x8000000000000000 = true := by decide

/-- SharedExponentEncoding: the classes of the clamp, at RGBE_MAX and beside it. -/
theorem witness_rgbe_classes : F64.lt 0x47DFE00000000000 0x47DFE00000000001 = true ∧
    (F64.lt 0x0000000000000000 0x47DFE00000000000 = true ∧ F64.le 0x47DFE00000000000 0x47DFE00000000000 = true) ∧
    F64.eq 0x8000000000000000 0x0000000000000000 = true := by decide

/-- ArithmeticFollowsIeee754: finite operands, a divisor that is no zero, and the ends of the narrow formats. -/
theorem witness_finite_operands : F64.isFinite 0x7FEFFFFFFFFFFFFF = true ∧ F64.isZero 0x0000000000000001 = false ∧
    F64.le 0xC7EFFFFFE0000000 0xC7EFFFFFE0000000 = true ∧ F64.le 0x40EFFC0000000000 0x40EFFC0000000000 = true := by
  decide

/-- ArithmeticFollowsIeee754: a NaN, the infinities and a zero as operands. -/
theorem witness_non_finite_operands : F64.isNaN fNaN = true ∧ (F64.isInf fInf = true ∧ F64.sign fInf = false) ∧
    (F64.isInf fMinusInf = true ∧ F64.sign fMinusInf = true) ∧ F64.isFinite 0x8000000000000000 = true ∧
    F64.isZero 0x8000000000000000 = true ∧ (F64.isFinite f1 = true ∧ F64.isZero f1 = false) := by decide

/-- SharedExponentEncoding: 2^-128, the first value encoded, and 2^-129. -/
theorem witness_shared_exponent : F64.units (clampRgbe 0x37F0000000000000).1 = 2 ^ 946 ∧
    F64.units (clampRgbe 0x37E0000000000000).1 < 2 ^ 946 := by decide +kernel

/-- ClampEventsCountReplacedChannels: each kind. -/
theorem witness_kinds : DataFormat.kind .r32f = .float32 ∧ DataFormat.kind .r16f = .float16 ∧
    DataFormat.kind .r8 = .fixed8 ∧ DataFormat.kind .rgbe8 = .rgbe := by decide

/-- PaddingLaws. -/
theorem witness_packed : DataFormat.packed .r8 = false ∧ DataFormat.packed .packedR8 = true := by decide

/-- SizeRegistersReadTheGeometry: FORMAT 9 and FORMAT 10. -/
theorem witness_size_registers : DataFormat.ofId (single 0x009 Sample.zero).cfg.format = some .rgbe8 ∧
    9 < (single 0x00A Sample.zero).cfg.format.toNat := by decide

/-- ConfigurationReadsBack, ClampCounterSaturatesAndClears, and the statements over a busy block. -/
theorem witness_idle_and_busy : State.reset.status.busy = false ∧ State.reset.inst.hasClampCounter = true ∧
    (busyWith .transform Outside.empty).status.busy = true := by decide

theorem witness_no_clamp_counter :
    (State.resetOf { tiny with hasClampCounter := false } Outside.empty).inst.hasClampCounter = false := by decide

/-- InterruptFollowsDone: a write of STATUS that clears DONE. -/
theorem witness_clear_done : (0x000000000000000E : Word).getLsbD 1 = true := by decide

/-- ReadsHaveNoSideEffect: a read of each space that answers a next state. -/
theorem witness_reads :
    (nextOf (hostStep (.read .regs 0xF8 8) smallImage)).isSome = true ∧
    (nextOf (hostStep (.read .input 8 8) smallImage)).isSome = true ∧
    (nextOf (hostStep (.read .output 3 1) otherState)).isSome = true := by decide

/-- BusyReadsReturnAnyValueWhereResultsStand: a busy state with a written byte of OUT. -/
theorem witness_busy_read : (otherState.issue 0).status.busy = true ∧
    (otherState.issue 0).outMem.readBytes 3 1 = some [0x55] ∧
    (otherState.issue 0).inst.hasClampCounter = true := by decide

/-- IllFormedAccessIsRefused: the last register, and accesses that are too narrow, misaligned or past the end. -/
theorem witness_access_bounds : (248 % 8 = 0 ∧ 248 + 8 ≤ 256) ∧
    smallImage.accessLegal .regs 248 8 = true ∧ smallImage.accessLegal .regs 0 4 = false ∧
    smallImage.accessLegal .regs 4 8 = false ∧ smallImage.accessLegal .regs 256 8 = false ∧
    smallImage.accessLegal .output 31 1 = true ∧ smallImage.accessLegal .output 32 1 = false ∧
    smallImage.accessLegal .input 128 8 = false := by decide

/-- OutWriteReadsBack and UnwrittenOutReadFaults: the last eight bytes, unwritten. -/
theorem witness_out_access : smallImage.status.busy = false ∧ smallImage.accessLegal .output 24 8 = true ∧
    smallImage.readOut 31 = none := by decide

/-- LaneWriteMakesLaneWritten: the last sample, in both lane formats. -/
theorem witness_lane : smallImage.status.busy = false ∧ 3 < smallImage.inst.inCapacity ∧
    smallImage.inst.sampleFmt = .binary64 ∧
    (State.resetOf { tiny with sampleFmt := .binary32 } Outside.empty).inst.sampleFmt = .binary32 := by decide

/-- BusyMemoryWriteSetsTheFaultMark: a host that writes IN, and one that writes OUT, while a command runs. -/
theorem witness_hazards :
    ((busyWith .nop ⟨[.write .input 0 8 0], [.host], [], 0⟩).status.busy = true ∧
      (busyWith .nop ⟨[.write .input 0 8 0], [.host], [], 0⟩).outside.turns = .host :: [] ∧
      (busyWith .nop ⟨[.write .input 0 8 0], [.host], [], 0⟩).outside.ops = .write .input 0 8 0 :: []) ∧
    (busyWith .nop ⟨[.write .input 0 8 0], [.host], [], 0⟩).accessLegal .input 0 8 = true ∧
    ([] : List HostOp).head? ≠ some .reset ∧
    (busyWith .nop ⟨[.write .output 0 1 0], [.host], [], 0⟩).accessLegal .output 0 1 = true ∧
    (busyWith .nop ⟨[.write .output 0 1 0], [.host], [], 0⟩).faultMark = none := by decide

/-- HostNeverWritesResults. -/
theorem witness_host_write : (HostOp.write .output 0 1 7) ≠ .reset ∧
    (nextOf (hostStep (.write .output 0 1 7) smallImage)).isSome = true := by decide

/-- ResetAbandonsTheCommand. -/
theorem witness_reset_while_busy :
    (busyWith .nop ⟨[.reset, .wait], [.host], [], 0⟩).status.busy = true ∧
    (busyWith .nop ⟨[.reset, .wait], [.host], [], 0⟩).faultMark = none ∧
    (busyWith .nop ⟨[.reset, .wait], [.host], [], 0⟩).outside.ops = .reset :: [.wait] ∧
    (busyWith .nop ⟨[.reset, .wait], [.host], [], 0⟩).outside.turns = .host :: [] := by decide

/-- The same while idle, and with a model fault marked while BUSY = 1. -/
theorem witness_reset_while_idle_or_marked :
    ((State.resetOf tiny ⟨[.reset], [], [], 0⟩).status.busy = false ∧
      (State.resetOf tiny ⟨[.reset], [], [], 0⟩).outside.ops = .reset :: []) ∧
    ((({ busyWith .nop ⟨[.reset], [.engine], [], 0⟩ with faultMark := some .hazardIn } : State).faultMark ≠ none) ∧
      ({ busyWith .nop ⟨[.reset], [.engine], [], 0⟩ with faultMark := some .hazardIn } : State).outside.ops =
        .reset :: []) := by decide

/-- A model fault followed by reset: after the reset the mark is clear (R169). -/
theorem witness_reset_after_fault :
    ((State.after 1 (busyWith .nop ⟨[.write .input 0 8 0, .reset], [.host], [], 0⟩)).map fun t =>
      (t.faultMark, t.outside.ops)) = some (some .hazardIn, [.reset]) ∧
    ((State.after 2 (busyWith .nop ⟨[.write .input 0 8 0, .reset], [.host], [], 0⟩)).map fun t =>
      (t.faultMark, t.status.busy)) = some (none, false) := by decide

/-- StepRunsTheCommandInExecution: a command that completes, and one that meets a fault. -/
theorem witness_engine_turn :
    (busyWith .nop Outside.empty).mover = .engine ∧ (busyWith .nop Outside.empty).curOp = .command .nop ∧
    (nextOf (exec .nop (busyWith .nop Outside.empty).useTurn)).isSome = true ∧
    ((5 : Nat) < 2 ^ 64 ∧ decodeWord (BitVec.ofNat 64 5) = .ok .encodePixel) := by decide

/-- The same with an illegal word in execution. -/
theorem witness_illegal_engine_turn : (State.reset.issue 0x6).faultMark = none ∧
    (State.reset.issue 0x6).mover = .engine ∧ (State.reset.issue 0x6).curOp = .illegal := by decide

theorem witness_engine_fault : exec .convert unwrittenImage = .fault .unwrittenIn := rfl

/-- StepRunsTheHostOperation: an operation that is a fault and one that is refused, at the host's turn while BUSY = 1. -/
theorem witness_host_turn_while_busy :
    (busyWith .nop ⟨[opRdout 0 1], [.host], [], 0⟩).status.busy = true ∧
    (busyWith .nop ⟨[opRdout 0 1], [.host], [], 0⟩).outside.turns = .host :: [] ∧
    statusOf (hostStep (opRd .version) (busyWith .nop Outside.empty)) = some 0x1 := by decide

theorem witness_host_fault : hostStep (opRdout 0 1) (busyWith .nop Outside.empty) = .fault .unwrittenOut := rfl

theorem witness_host_refusal : hostStep (opRdout 1 2) (busyWith .nop Outside.empty) = .refused .illFormedAccess := rfl

/-- StepRunsTheHostOperation: an operation to come, and none. -/
theorem witness_host_turn :
    (State.resetOf tiny ⟨[opRd .version], [], [], 0⟩).outside.ops = opRd .version :: [] ∧
    (nextOf (hostStep (opRd .version) (State.resetOf tiny Outside.empty))).isSome = true ∧
    (State.resetOf tiny Outside.empty).outside.ops = [] ∧
    (State.resetOf tiny Outside.empty).faultMark = none := by decide

/-- R76: the WAIT of a busy block is the next operation again, and that of an idle one is over. -/
theorem test_wait : ((nextOf (hostStep .wait (busyWith .nop Outside.empty))).map fun t => (t.outside.ops, t.status.busy)) =
      some ([.wait], true) ∧
    ((nextOf (hostStep .wait State.reset)).map fun t => (t.outside.ops, t.outside.reads)) = some ([], [0]) := by decide

/-- EveryCommandCompletes. -/
theorem witness_in_execution : (busyWith .convert ⟨[.wait], [.host, .host, .engine], [], 0⟩).status.busy = true ∧
    (busyWith .convert ⟨[.wait], [.host, .host, .engine], [], 0⟩).faultMark = none := by decide

/-- StepKeepsTheInvariant: a state in execution with the invariant, and its step. -/
theorem witness_invariant : (busyWith .nop Outside.empty).Inv where
  legal := by decide
  inWf := by decide
  outWf := by decide
  inBelow := by decide
  outBelow := by decide
  errcodeIffErr := by decide
  errcodeMax := by decide
  busyReportsNothing := by decide
  quantized := by decide
  noCounter := by decide

theorem witness_invariant_step : (nextOf (step (busyWith .nop Outside.empty))).isSome = true := by decide

/-- ResetMeetsTheInvariant. -/
theorem witness_legal_instance : tiny.wellFormed = true := by decide

end Sys2Proof.Tests
end

section
/-! SUPPORT. Rounding to nearest, ties to even (R12): the integer chosen, and the magnitude pattern chosen. -/

namespace Sys2Proof.Machine

/-- The integer chosen is the quotient, when no more than half the divisor remains, or the next one, when no less. -/
theorem roundHalfEven_cases (n d : Nat) :
    2 * (n % d) ≤ d ∧ roundHalfEven n d = n / d ∨ d ≤ 2 * (n % d) ∧ roundHalfEven n d = n / d + 1 := by
  unfold roundHalfEven
  dsimp only
  split
  · omega
  · split <;> omega

theorem roundHalfEven_even_of_tie (n d : Nat) (h : 2 * (n % d) = d) : roundHalfEven n d % 2 = 0 := by
  simp only [roundHalfEven, h, Nat.lt_irrefl, if_false]
  omega

/-- No integer is nearer to `n / d` than the one chosen, and one as near is chosen only if it is even. -/
theorem roundHalfEven_nearest (n d k : Nat) (hd : 0 < d) :
    ((n : Int) - d * roundHalfEven n d).natAbs ≤ ((n : Int) - d * k).natAbs ∧
    (((n : Int) - d * roundHalfEven n d).natAbs = ((n : Int) - d * k).natAbs →
      k = roundHalfEven n d ∨ roundHalfEven n d % 2 = 0) := by
  have hn := Nat.div_add_mod n d
  have hr := Nat.mod_lt n hd
  have hnext : d * (n / d + 1) = d * (n / d) + d := Nat.mul_succ _ _
  have hk : d * k + d ≤ d * (n / d) ∨ k = n / d ∧ d * k = d * (n / d) ∨
      k = n / d + 1 ∧ d * k = d * (n / d) + d ∨ d * (n / d) + d + d ≤ d * k := by
    rcases lt_trichotomy k (n / d) with h | rfl | h
    · exact .inl (Nat.mul_le_mul_left d h)
    · exact .inr (.inl ⟨rfl, rfl⟩)
    · rcases Nat.eq_or_lt_of_le h with rfl | h
      · exact .inr (.inr (.inl ⟨rfl, hnext⟩))
      · exact .inr (.inr (.inr (Nat.mul_le_mul_left d h)))
  have hchoice : 2 * (n % d) ≤ d ∧ roundHalfEven n d = n / d ∧ d * roundHalfEven n d = d * (n / d) ∨
      d ≤ 2 * (n % d) ∧ roundHalfEven n d = n / d + 1 ∧ d * roundHalfEven n d = d * (n / d) + d := by
    rcases roundHalfEven_cases n d with ⟨hle, he⟩ | ⟨hle, he⟩
    · exact .inl ⟨hle, he, by rw [he]⟩
    · exact .inr ⟨hle, he, by rw [he, hnext]⟩
  have heven := roundHalfEven_even_of_tie n d
  generalize roundHalfEven n d = c at *
  simp only [← Nat.cast_mul]
  rcases hchoice with ⟨hle, hc, hdc⟩ | ⟨hle, hc, hdc⟩ <;> rw [hdc]
  · rcases hk with hk | ⟨hk, hdk⟩ | ⟨hk, hdk⟩ | hk <;> omega
  · rcases hk with hk | ⟨hk, hdk⟩ | ⟨hk, hdk⟩ | hk <;> omega

/-- In the binade `e`, whose spacing is `2^e` units, a pattern's significand counts that spacing; the significand of the
next binade's first pattern too. -/
theorem unitsOf_binade {frac e s : Nat} (hlo : e = 0 ∨ 2 ^ frac ≤ s) (hhi : s ≤ 2 * 2 ^ frac) :
    unitsOf frac (e * 2 ^ frac + s) = s * 2 ^ e := by
  have hnormal : ∀ k f : Nat, f < 2 ^ frac → unitsOf frac (2 ^ frac * (k + 1) + f) = (2 ^ frac + f) * 2 ^ k := by
    intro k f hf
    simp [unitsOf, Nat.mul_add_div, Nat.div_eq_of_lt hf, Nat.mod_eq_of_lt hf]
  rcases Nat.lt_or_ge s (2 ^ frac) with hs | hs
  · obtain rfl : e = 0 := by omega
    simp [unitsOf, Nat.div_eq_of_lt hs]
  · obtain ⟨f, rfl⟩ := Nat.exists_eq_add_of_le hs
    rcases Nat.eq_or_lt_of_le hhi with hc | hc
    · obtain rfl : f = 2 ^ frac := by omega
      rw [show e * 2 ^ frac + (2 ^ frac + 2 ^ frac) = 2 ^ frac * (e + 1 + 1) + 0 by ring, hnormal _ _ (by simp)]
      ring
    · rw [show e * 2 ^ frac + (2 ^ frac + f) = 2 ^ frac * (e + 1) + f by ring, hnormal _ _ (by omega)]

/-- From the binade `e` on, every pattern stands for a multiple of that binade's spacing. -/
theorem unitsOf_eq_mul_two_pow {frac e m : Nat} (h : e = 0 ∨ e * 2 ^ frac + 2 ^ frac ≤ m) :
    ∃ k, unitsOf frac m = k * 2 ^ e := by
  rcases h with rfl | h
  · exact ⟨_, (Nat.mul_one _).symm⟩
  · have hdiv : e + 1 ≤ m / 2 ^ frac := by
      rw [Nat.le_div_iff_mul_le (Nat.two_pow_pos _), Nat.add_one_mul]
      exact h
    obtain ⟨j, hj⟩ := Nat.exists_eq_add_of_le hdiv
    refine ⟨(2 ^ frac + m % 2 ^ frac) * 2 ^ j, ?_⟩
    rw [unitsOf, if_neg (by omega), hj, Nat.mul_assoc, ← Nat.pow_add]
    congr 2
    omega

/-- The binade in which `n / d` units is rounded, counted from the subnormals'. -/
def roundBinade (frac n d : Nat) : Nat := Nat.log2 (n / d) - frac

theorem roundMag_eq (frac n d : Nat) : roundMag frac n d =
    roundBinade frac n d * 2 ^ frac + roundHalfEven n (d * 2 ^ roundBinade frac n d) := rfl

@[simp] theorem roundMag_zero (frac d : Nat) : roundMag frac 0 d = 0 := by
  simp [roundMag, roundHalfEven]

/-- In its binade, `n / d` has less than twice the least normal significand. -/
theorem significand_lt (frac n d : Nat) : n / (d * 2 ^ roundBinade frac n d) < 2 * 2 ^ frac := by
  rw [← Nat.div_div_eq_div_mul, Nat.div_lt_iff_lt_mul (Nat.two_pow_pos _), ← Nat.pow_succ', ← Nat.pow_add]
  refine Nat.lt_of_lt_of_le Nat.lt_log2_self (Nat.pow_le_pow_right (by omega) ?_)
  unfold roundBinade
  omega

/-- Above the subnormals' binade, the significand is a normal one. -/
theorem le_significand {frac n d : Nat} (h : roundBinade frac n d ≠ 0) :
    2 ^ frac ≤ n / (d * 2 ^ roundBinade frac n d) := by
  unfold roundBinade at *
  rw [← Nat.div_div_eq_div_mul, Nat.le_div_iff_mul_le (Nat.two_pow_pos _), ← Nat.pow_add,
    show frac + (Nat.log2 (n / d) - frac) = Nat.log2 (n / d) by omega]
  refine Nat.log2_self_le fun h0 => h ?_
  simp [h0]

/-- The pattern chosen stands for the rounded significand, in the binade's spacing. -/
theorem unitsOf_roundMag (frac n d : Nat) : unitsOf frac (roundMag frac n d) =
    roundHalfEven n (d * 2 ^ roundBinade frac n d) * 2 ^ roundBinade frac n d := by
  have hcases := roundHalfEven_cases n (d * 2 ^ roundBinade frac n d)
  have hlt := significand_lt frac n d
  rw [roundMag_eq]
  refine unitsOf_binade ?_ (by omega)
  rcases Nat.eq_zero_or_pos (roundBinade frac n d) with h0 | hpos
  · exact .inl h0
  · have hle := le_significand hpos.ne'
    exact .inr (by omega)

/-- The significand and the pattern it makes are odd and even together. -/
theorem roundMag_mod_two {frac : Nat} (n d : Nat) (hf : 0 < frac) :
    roundMag frac n d % 2 = roundHalfEven n (d * 2 ^ roundBinade frac n d) % 2 := by
  obtain ⟨k, rfl⟩ := Nat.exists_eq_add_of_lt hf
  rw [roundMag_eq, Nat.pow_succ, ← Nat.mul_assoc]
  omega

/-- R12: `roundMag` rounds to nearest, ties to even. -/
theorem roundMag_nearest (frac n d m : Nat) (hf : 0 < frac) (hd : 0 < d) :
    ((n : Int) - d * unitsOf frac (roundMag frac n d)).natAbs ≤ ((n : Int) - d * unitsOf frac m).natAbs ∧
    (((n : Int) - d * unitsOf frac (roundMag frac n d)).natAbs = ((n : Int) - d * unitsOf frac m).natAbs →
      m = roundMag frac n d ∨ roundMag frac n d % 2 = 0) := by
  have hunits := unitsOf_roundMag frac n d
  have hgrid := fun k => roundHalfEven_nearest n (d * 2 ^ roundBinade frac n d) k
    (Nat.mul_pos hd (Nat.two_pow_pos _))
  have hle := @le_significand frac n d
  rw [roundMag_mod_two n d hf]
  have hscale : ∀ k : Nat, ((d * 2 ^ roundBinade frac n d : Nat) : Int) * k =
      d * ((k * 2 ^ roundBinade frac n d : Nat) : Int) := by intro k; push_cast; ring
  simp only [hscale, ← hunits] at hgrid
  by_cases hm : roundBinade frac n d = 0 ∨ roundBinade frac n d * 2 ^ frac + 2 ^ frac ≤ m
  · obtain ⟨k, hk⟩ := unitsOf_eq_mul_two_pow hm
    obtain ⟨hnear, htie⟩ := hgrid k
    rw [hk]
    refine ⟨hnear, fun h => (htie h).imp_left fun hc => ?_⟩
    exact (unitsOf_strictMono frac).injective (by rw [hk, hc, hunits])
  · obtain ⟨hb, hlow⟩ := not_or.mp hm
    have hsig := (Nat.le_div_iff_mul_le (Nat.mul_pos hd (Nat.two_pow_pos _))).mp (hle hb)
    have hfirst : d * (2 ^ frac * 2 ^ roundBinade frac n d) ≤ n := by
      rwa [Nat.mul_left_comm]
    have hbelow : unitsOf frac m < 2 ^ frac * 2 ^ roundBinade frac n d := by
      rw [← unitsOf_binade (.inr (Nat.le_refl _)) (by omega)]
      exact unitsOf_strictMono frac (by omega)
    have hmul := Nat.mul_lt_mul_of_pos_left hbelow hd
    have hnear := (hgrid (2 ^ frac)).1
    generalize 2 ^ frac * 2 ^ roundBinade frac n d = first at *
    simp only [← Nat.cast_mul] at hnear ⊢
    omega

/-- A value of at most the pattern `m` is rounded to at most `m`. -/
theorem roundMag_le {frac n d m : Nat} (hf : 0 < frac) (hd : 0 < d) (h : n ≤ d * unitsOf frac m) :
    roundMag frac n d ≤ m := by
  by_contra hgt
  have hmul := Nat.mul_lt_mul_of_pos_left (unitsOf_strictMono frac (Nat.lt_of_not_ge hgt)) hd
  have hnear := (roundMag_nearest frac n d m hf hd).1
  simp only [← Nat.cast_mul] at hnear
  omega

end Sys2Proof.Machine
end

section
/-! SUPPORT. A pattern's sign, magnitude and class: reading them back, what inverting the sign keeps, and the two orders
of the finite values. -/

namespace Sys2Proof.Machine

/-- The magnitude below a sign bit at place `k` reads back. -/
theorem signMag_toNat_mod {k m : Nat} (s : Bool) (hm : m < 2 ^ k) :
    (BitVec.ofNat (k + 1) ((if s then 2 ^ k else 0) + m)).toNat % 2 ^ k = m := by
  rw [BitVec.toNat_ofNat, Nat.mod_mod_of_dvd _ (Nat.pow_dvd_pow 2 (Nat.le_succ k))]
  cases s <;> simp [Nat.mod_eq_of_lt hm]

/-- The sign bit at place `k` above a magnitude reads back. -/
theorem signMag_getLsbD {k m : Nat} (s : Bool) (hm : m < 2 ^ k) :
    (BitVec.ofNat (k + 1) ((if s then 2 ^ k else 0) + m)).getLsbD k = s := by
  rw [BitVec.getLsbD_ofNat]
  cases s <;> simp [Nat.testBit_lt_two_pow hm, Nat.testBit_two_pow_add_eq]

namespace F64

theorem mag_ofSignMag {m : Nat} (s : Bool) (hm : m < 2 ^ 63) : mag (ofSignMag s m) = m := signMag_toNat_mod s hm

theorem sign_ofSignMag {m : Nat} (s : Bool) (hm : m < 2 ^ 63) : sign (ofSignMag s m) = s := signMag_getLsbD s hm

theorem min_infMag_lt (m : Nat) : min m infMag < 2 ^ 63 := Nat.lt_of_le_of_lt (Nat.min_le_right _ _) (by decide)

@[simp] theorem mag_round (s : Bool) (n d : Nat) : mag (round s n d) = min (roundMag 52 n d) infMag :=
  mag_ofSignMag s (min_infMag_lt _)

@[simp] theorem sign_round (s : Bool) (n d : Nat) : sign (round s n d) = s := sign_ofSignMag s (min_infMag_lt _)

@[simp] theorem mag_ofSignMag_zero (s : Bool) : mag (ofSignMag s 0) = 0 := mag_ofSignMag s (by decide)

@[simp] theorem sign_ofSignMag_zero (s : Bool) : sign (ofSignMag s 0) = s := sign_ofSignMag s (by decide)

@[simp] theorem mag_ofSignMag_infMag (s : Bool) : mag (ofSignMag s infMag) = infMag := mag_ofSignMag s (by decide)

@[simp] theorem sign_ofSignMag_infMag (s : Bool) : sign (ofSignMag s infMag) = s := sign_ofSignMag s (by decide)

@[simp] theorem isNaN_canonNaN : isNaN canonNaN = true := by decide

@[simp] theorem isInf_ofSignMag_infMag (s : Bool) : isInf (ofSignMag s infMag) = true := by simp [isInf]

@[simp] theorem isZero_ofSignMag_zero (s : Bool) : isZero (ofSignMag s 0) = true := by simp [isZero]

/-! Each pattern is a NaN, an infinity or finite, and a zero is finite. -/

theorem isNaN_of_isInf {v : Word} (h : isInf v = true) : isNaN v = false := by
  simp only [isInf, isNaN, decide_eq_true_eq, decide_eq_false_iff_not] at *; omega

theorem isZero_of_isInf {v : Word} (h : isInf v = true) : isZero v = false := by
  simp only [isInf, isZero, decide_eq_true_eq, decide_eq_false_iff_not] at *; rw [h]; decide

theorem isNaN_of_isFinite {v : Word} (h : isFinite v = true) : isNaN v = false := by
  simp only [isFinite, isNaN, decide_eq_true_eq, decide_eq_false_iff_not] at *; omega

theorem isInf_of_isFinite {v : Word} (h : isFinite v = true) : isInf v = false := by
  simp only [isFinite, isInf, decide_eq_true_eq, decide_eq_false_iff_not] at *; omega

theorem isFinite_of_isZero {v : Word} (h : isZero v = true) : isFinite v = true := by
  simp only [isZero, isFinite, decide_eq_true_eq] at *; rw [h]; decide

/-! `neg` inverts the sign and keeps the rest. -/

@[simp] theorem sign_neg (v : Word) : sign (neg v) = !sign v := by
  simp only [sign, neg, BitVec.getLsbD_xor, show BitVec.getLsbD (0x8000000000000000 : Word) 63 = true by decide,
    Bool.xor_true]

@[simp] theorem mag_neg (v : Word) : mag (neg v) = mag v := by
  simp only [mag, neg, BitVec.toNat_xor, Nat.xor_mod_two_pow]
  simp

@[simp] theorem isNaN_neg (v : Word) : isNaN (neg v) = isNaN v := by simp [isNaN]

@[simp] theorem isInf_neg (v : Word) : isInf (neg v) = isInf v := by simp [isInf]

@[simp] theorem isFinite_neg (v : Word) : isFinite (neg v) = isFinite v := by simp [isFinite]

@[simp] theorem isZero_neg (v : Word) : isZero (neg v) = isZero v := by simp [isZero]

@[simp] theorem signedUnits_neg (v : Word) : signedUnits (neg v) = -signedUnits v := by
  cases h : sign v <;> simp [signedUnits, units, h]

/-! A pattern's place in the order is its value's, both zeros being 0. -/

@[simp] theorem unitsOf_zero (frac : Nat) : unitsOf frac 0 = 0 := by simp [unitsOf]

/-- Signed magnitudes are ordered as the signed values of a strictly increasing function with `f 0 = 0`. -/
theorem signed_lt_iff {f : Nat → Nat} (hf : StrictMono f) (h0 : f 0 = 0) (s t : Bool) (m n : Nat) :
    (if s then -(f m : Int) else f m) < (if t then -(f n : Int) else f n) ↔
      (if s then -(m : Int) else m) < (if t then -(n : Int) else n) := by
  have hmn := hf.lt_iff_lt (a := m) (b := n)
  have hnm := hf.lt_iff_lt (a := n) (b := m)
  have hm := hf.lt_iff_lt (a := 0) (b := m)
  have hn := hf.lt_iff_lt (a := 0) (b := n)
  cases s <;> cases t <;> simp only [Bool.false_eq_true, if_true, if_false] <;> omega

theorem signedUnits_lt_iff (a b : Word) : signedUnits a < signedUnits b ↔ key a < key b :=
  signed_lt_iff (unitsOf_strictMono 52) (unitsOf_zero 52) (sign a) (sign b) (mag a) (mag b)

theorem signedUnits_le_iff (a b : Word) : signedUnits a ≤ signedUnits b ↔ key a ≤ key b := by
  have h := signedUnits_lt_iff b a
  omega

theorem signedUnits_eq_iff (a b : Word) : signedUnits a = signedUnits b ↔ key a = key b := by
  have hab := signedUnits_lt_iff a b
  have hba := signedUnits_lt_iff b a
  omega

/-- A value between the two of magnitude `m` has at most that magnitude. -/
theorem mag_le_of_le {lo hi v : Word} {m : Nat} (hlo : key lo = -m) (hhi : key hi = m) (h : le lo v = true)
    (h' : le v hi = true) : mag v ≤ m := by
  simp only [le, Bool.and_eq_true, decide_eq_true_eq] at h h'
  obtain ⟨-, h⟩ := h
  obtain ⟨-, h'⟩ := h'
  rw [hlo] at h
  rw [hhi] at h'
  cases hs : sign v <;> simp only [key, hs, if_true, Bool.false_eq_true, if_false] at h h' <;> omega

end F64

end Sys2Proof.Machine
end

section
/-! SUPPORT. The arithmetic of IEEE 754 (R12), one rule per class of operands, and what each rule gives. -/

namespace Sys2Proof.Machine.F64

variable {a b : Word}

/-! ### A NaN operand -/

theorem add_of_isNaN (h : isNaN a = true ∨ isNaN b = true) : add a b = canonNaN := by
  rcases h with h | h <;> simp [add, h]

theorem sub_of_isNaN (h : isNaN a = true ∨ isNaN b = true) : sub a b = canonNaN :=
  add_of_isNaN (by simpa using h)

theorem mul_of_isNaN (h : isNaN a = true ∨ isNaN b = true) : mul a b = canonNaN := by
  rcases h with h | h <;> simp [mul, h]

theorem div_of_isNaN (h : isNaN a = true ∨ isNaN b = true) : div a b = canonNaN := by
  rcases h with h | h <;> simp [div, h]

theorem compare_of_isNaN (h : isNaN a = true ∨ isNaN b = true) : lt a b = false ∧ le a b = false ∧ eq a b = false := by
  rcases h with h | h <;> simp [lt, le, eq, h]

/-! ### Infinite operands and a zero divisor -/

theorem add_of_isInf_left (ha : isInf a = true) (hb : isNaN b = false) (h : isInf b = true → sign a = sign b) :
    add a b = a := by
  simpa [add, isNaN_of_isInf ha, ha, hb] using fun h' hne => absurd (h h') hne

theorem add_of_isInf_opposite (ha : isInf a = true) (hb : isInf b = true) (h : sign a ≠ sign b) :
    add a b = canonNaN := by
  simp [add, isNaN_of_isInf, ha, hb, h]

theorem add_of_isInf_right (ha : isFinite a = true) (hb : isInf b = true) : add a b = b := by
  simp [add, isNaN_of_isFinite ha, isInf_of_isFinite ha, isNaN_of_isInf hb, hb]

theorem mul_of_isInf (ha : isNaN a = false) (hb : isNaN b = false) (h : isInf a = true ∨ isInf b = true) :
    mul a b = if isZero a || isZero b then canonNaN else ofSignMag (sign a != sign b) infMag := by
  rcases h with h | h <;> simp [mul, ha, hb, h]

theorem div_of_isInf (ha : isInf a = true) (hb : isInf b = true) : div a b = canonNaN := by
  simp [div, isNaN_of_isInf, ha, hb]

theorem div_of_isInf_left (ha : isInf a = true) (hb : isFinite b = true) :
    div a b = ofSignMag (sign a != sign b) infMag := by
  simp [div, isNaN_of_isInf ha, isNaN_of_isFinite hb, ha, isInf_of_isFinite hb]

theorem div_of_isInf_right (ha : isFinite a = true) (hb : isInf b = true) :
    div a b = ofSignMag (sign a != sign b) 0 := by
  simp [div, isNaN_of_isFinite ha, isNaN_of_isInf hb, isInf_of_isFinite ha, hb]

theorem div_of_isZero (ha : isFinite a = true) (hb : isZero b = true) :
    div a b = if isZero a then canonNaN else ofSignMag (sign a != sign b) infMag := by
  have hb' := isFinite_of_isZero hb
  simp [div, isNaN_of_isFinite, isInf_of_isFinite, ha, hb, hb']

/-! ### Finite operands -/

theorem add_of_isFinite (ha : isFinite a = true) (hb : isFinite b = true) :
    add a b = if signedUnits a + signedUnits b = 0 then ofSignMag (sign a && sign b) 0
      else round (decide (signedUnits a + signedUnits b < 0)) (signedUnits a + signedUnits b).natAbs 1 := by
  simp [add, isNaN_of_isFinite, isInf_of_isFinite, ha, hb]

theorem mul_of_isFinite (ha : isFinite a = true) (hb : isFinite b = true) :
    mul a b = round (sign a != sign b) (units a * units b) (2 ^ unitExp) := by
  simp [mul, isNaN_of_isFinite, isInf_of_isFinite, ha, hb]

theorem div_of_isFinite (ha : isFinite a = true) (hb : isFinite b = true) (hz : isZero b = false) :
    div a b = round (sign a != sign b) (units a * 2 ^ unitExp) (units b) := by
  simp [div, isNaN_of_isFinite, isInf_of_isFinite, ha, hb, hz]

/-- The sum of finite values is the exact sum rounded, with its sign. -/
theorem add_rounds (ha : isFinite a = true) (hb : isFinite b = true) :
    mag (add a b) = min (roundMag 52 (signedUnits a + signedUnits b).natAbs 1) infMag ∧
      sign (add a b) = if signedUnits a + signedUnits b = 0 then sign a && sign b
        else decide (signedUnits a + signedUnits b < 0) := by
  rw [add_of_isFinite ha hb]
  split
  · rename_i h0
    simp [h0]
  · simp

/-- The difference of finite values is the exact difference rounded, with its sign. -/
theorem sub_rounds (ha : isFinite a = true) (hb : isFinite b = true) :
    mag (sub a b) = min (roundMag 52 (signedUnits a - signedUnits b).natAbs 1) infMag ∧
      sign (sub a b) = if signedUnits a - signedUnits b = 0 then sign a && !sign b
        else decide (signedUnits a - signedUnits b < 0) := by
  simpa [sub, Int.sub_eq_add_neg] using add_rounds (b := neg b) ha (by simpa using hb)

/-! ### Comparisons -/

theorem compare_of_not_isNaN (ha : isNaN a = false) (hb : isNaN b = false) :
    lt a b = decide (key a < key b) ∧ le a b = decide (key a ≤ key b) ∧ eq a b = decide (key a = key b) := by
  simp [lt, le, eq, ha, hb]

theorem key_of_isInf (h : isInf a = true) : key a = if sign a then -(infMag : Int) else infMag := by
  simp only [isInf, decide_eq_true_eq] at h
  rw [key, h]

theorem key_of_isFinite (h : isFinite a = true) : -(infMag : Int) < key a ∧ key a < infMag := by
  simp only [isFinite, decide_eq_true_eq] at h
  unfold key
  split <;> omega

/-- Two infinities are ordered by their signs. -/
theorem compare_of_isInf (ha : isInf a = true) (hb : isInf b = true) :
    lt a b = (sign a && !sign b) ∧ le a b = (sign a || !sign b) ∧ eq a b = (sign a == sign b) := by
  obtain ⟨hlt, hle, heq⟩ := compare_of_not_isNaN (isNaN_of_isInf ha) (isNaN_of_isInf hb)
  rw [hlt, hle, heq, key_of_isInf ha, key_of_isInf hb]
  cases sign a <;> cases sign b <;> decide

/-- An infinity lies beyond every finite value, on its sign's side. -/
theorem compare_isInf_isFinite (ha : isInf a = true) (hb : isFinite b = true) :
    lt a b = sign a ∧ le a b = sign a ∧ lt b a = !sign a ∧ le b a = !sign a ∧ eq a b = false ∧ eq b a = false := by
  obtain ⟨hlt, hle, heq⟩ := compare_of_not_isNaN (isNaN_of_isInf ha) (isNaN_of_isFinite hb)
  obtain ⟨hlt', hle', heq'⟩ := compare_of_not_isNaN (isNaN_of_isFinite hb) (isNaN_of_isInf ha)
  obtain ⟨hlow, hhigh⟩ := key_of_isFinite hb
  rw [hlt, hle, heq, hlt', hle', heq', key_of_isInf ha]
  cases sign a <;> simp <;> omega

/-- Finite values are ordered by value. -/
theorem compare_of_isFinite (ha : isFinite a = true) (hb : isFinite b = true) :
    lt a b = decide (signedUnits a < signedUnits b) ∧ le a b = decide (signedUnits a ≤ signedUnits b) ∧
      eq a b = decide (signedUnits a = signedUnits b) := by
  simpa only [signedUnits_lt_iff, signedUnits_le_iff, signedUnits_eq_iff] using
    compare_of_not_isNaN (isNaN_of_isFinite ha) (isNaN_of_isFinite hb)

end Sys2Proof.Machine.F64
end

section
/-! SUPPORT. The narrowing of an in-range value to binary32 and binary16 (R104, R105). -/

namespace Sys2Proof.Machine

/-- Where a narrower format has the magnitude `top` exactly, as `m`, a value between the two of that magnitude is rounded
there to at most `m`. -/
theorem roundMag_narrow_le {frac scale top m : Nat} {lo hi v : Word} (hf : 0 < frac) (hlo : F64.key lo = -top)
    (hhi : F64.key hi = top) (htop : unitsOf 52 top = 2 ^ scale * unitsOf frac m) (h : F64.le lo v = true)
    (h' : F64.le v hi = true) : roundMag frac (F64.units v) (2 ^ scale) ≤ m := by
  refine roundMag_le hf (Nat.two_pow_pos _) ?_
  rw [← htop]
  exact (unitsOf_strictMono 52).monotone (F64.mag_le_of_le hlo hhi h h')

/-- Within binary32's finite range, `rnd32` is the magnitude rounded, below the sign bit. -/
theorem rnd32_rounds {v : Word} (h : F64.le 0xC7EFFFFFE0000000 v = true) (h' : F64.le v 0x47EFFFFFE0000000 = true) :
    (rnd32 v).toNat % 2 ^ 31 = roundMag 23 (F64.units v) (2 ^ (unitExp - unitExp32)) ∧
      (rnd32 v).getLsbD 31 = F64.sign v := by
  have hle := roundMag_narrow_le (frac := 23) (scale := unitExp - unitExp32) (top := 0x47EFFFFFE0000000)
    (m := 0x7F7FFFFF) (by decide) (by decide) (by decide) (by decide +kernel) h h'
  have hlt : roundMag 23 (F64.units v) (2 ^ (unitExp - unitExp32)) < 2 ^ 31 := by omega
  exact ⟨signMag_toNat_mod _ hlt, signMag_getLsbD _ hlt⟩

/-- Within binary16's finite range, `rnd16` is the magnitude rounded, below the sign bit. -/
theorem rnd16_rounds {v : Word} (h : F64.le 0xC0EFFC0000000000 v = true) (h' : F64.le v 0x40EFFC0000000000 = true) :
    (rnd16 v).toNat % 2 ^ 15 = roundMag 10 (F64.units v) (2 ^ (unitExp - unitExp16)) ∧
      (rnd16 v).getLsbD 15 = F64.sign v := by
  have hle := roundMag_narrow_le (frac := 10) (scale := unitExp - unitExp16) (top := 0x40EFFC0000000000)
    (m := 0x7BFF) (by decide) (by decide) (by decide) (by decide +kernel) h h'
  have hlt : roundMag 10 (F64.units v) (2 ^ (unitExp - unitExp16)) < 2 ^ 15 := by omega
  exact ⟨signMag_toNat_mod _ hlt, signMag_getLsbD _ hlt⟩

end Sys2Proof.Machine
end

section
/-! PROOF. What the arithmetic of the colour transforms, the power functions and the narrowings rests on (R12, R104,
R105): ArithmeticFollowsIeee754, clause by clause. -/

namespace Sys2Proof.Machine.F64

variable {a b : Word}

/-- A NaN operand gives a NaN and makes every comparison false. -/
theorem nan_operand (h : isNaN a = true ∨ isNaN b = true) :
    isNaN (add a b) = true ∧ isNaN (sub a b) = true ∧ isNaN (mul a b) = true ∧ isNaN (div a b) = true ∧
      lt a b = false ∧ le a b = false ∧ eq a b = false := by
  rw [add_of_isNaN h, sub_of_isNaN h, mul_of_isNaN h, div_of_isNaN h]
  exact ⟨rfl, rfl, rfl, rfl, compare_of_isNaN h⟩

/-- The sum and difference of two infinities: one of them, or a NaN. -/
theorem add_sub_infinities (ha : isInf a = true) (hb : isInf b = true) :
    (sign a = sign b → add a b = a ∧ isNaN (sub a b) = true) ∧
      (sign a ≠ sign b → isNaN (add a b) = true ∧ sub a b = a) := by
  have hb' : isInf (neg b) = true := by simpa using hb
  constructor <;> intro hs
  · have hsub : sub a b = canonNaN := add_of_isInf_opposite ha hb' (by simp [hs])
    exact ⟨add_of_isInf_left ha (isNaN_of_isInf hb) fun _ => hs, by rw [hsub]; rfl⟩
  · rw [add_of_isInf_opposite ha hb hs]
    exact ⟨rfl, add_of_isInf_left ha (isNaN_of_isInf hb') fun _ => by simpa [Bool.eq_not] using hs⟩

/-- The product and quotient of two infinities. -/
theorem mul_div_infinities (ha : isInf a = true) (hb : isInf b = true) :
    isInf (mul a b) = true ∧ sign (mul a b) = (sign a != sign b) ∧ isNaN (div a b) = true := by
  rw [mul_of_isInf (isNaN_of_isInf ha) (isNaN_of_isInf hb) (.inl ha), div_of_isInf ha hb]
  simp [isZero_of_isInf, ha, hb]

/-- An infinity and a finite value: the sum and difference, either way round. -/
theorem add_sub_infinity_finite (ha : isInf a = true) (hb : isFinite b = true) :
    add a b = a ∧ add b a = a ∧ sub a b = a ∧ isInf (sub b a) = true ∧ sign (sub b a) = !sign a := by
  have hb' : isFinite (neg b) = true := by simpa using hb
  have hleft : ∀ c : Word, isFinite c = true → add a c = a := fun c hc =>
    add_of_isInf_left ha (isNaN_of_isFinite hc) fun hi => absurd hi (by simp [isInf_of_isFinite hc])
  have hrev : sub b a = neg a := add_of_isInf_right hb (by simpa using ha)
  exact ⟨hleft b hb, add_of_isInf_right hb ha, hleft _ hb', by simpa [hrev] using ha, by simp [hrev]⟩

/-- An infinity and a finite value: the product, either way round. -/
theorem mul_infinity_finite (ha : isInf a = true) (hb : isFinite b = true) (r : Word) (hr : r = mul a b ∨ r = mul b a) :
    (isZero b = true → isNaN r = true) ∧
      (isZero b = false → isInf r = true ∧ sign r = (sign a != sign b)) := by
  have hprod : r = if isZero b then canonNaN else ofSignMag (sign a != sign b) infMag := by
    rcases hr with rfl | rfl
    · simp [mul_of_isInf (isNaN_of_isInf ha) (isNaN_of_isFinite hb) (.inl ha), isZero_of_isInf ha]
    · simp [mul_of_isInf (isNaN_of_isFinite hb) (isNaN_of_isInf ha) (.inr ha), isZero_of_isInf ha, bne_comm]
  rw [hprod]
  cases isZero b <;> simp

/-- An infinity and a finite value: the quotient, either way round. -/
theorem div_infinity_finite (ha : isInf a = true) (hb : isFinite b = true) :
    isInf (div a b) = true ∧ sign (div a b) = (sign a != sign b) ∧
      isZero (div b a) = true ∧ sign (div b a) = (sign a != sign b) := by
  rw [div_of_isInf_left ha hb, div_of_isInf_right hb ha]
  simp [bne_comm]

/-- A finite value by a zero. -/
theorem div_by_zero (ha : isFinite a = true) (hb : isZero b = true) :
    (isZero a = true → isNaN (div a b) = true) ∧
      (isZero a = false → isInf (div a b) = true ∧ sign (div a b) = (sign a != sign b)) := by
  rw [div_of_isZero ha hb]
  cases isZero a <;> simp

/-- The product and quotient of finite values are the exact result rounded, with its sign. -/
theorem mul_div_round (ha : isFinite a = true) (hb : isFinite b = true) :
    (mag (mul a b) = min (roundMag 52 (units a * units b) (2 ^ unitExp)) infMag ∧
        sign (mul a b) = (sign a != sign b)) ∧
      (isZero b = false →
        mag (div a b) = min (roundMag 52 (units a * 2 ^ unitExp) (units b)) infMag ∧
          sign (div a b) = (sign a != sign b)) := by
  rw [mul_of_isFinite ha hb]
  refine ⟨⟨mag_round .., sign_round ..⟩, fun hz => ?_⟩
  rw [div_of_isFinite ha hb hz]
  exact ⟨mag_round .., sign_round ..⟩

end Sys2Proof.Machine.F64

open Sys2Proof Sys2Proof.Machine

/-- Settles O26: one rounding, proved nearest-even on the grid of its binade, and one rule per class of operands. -/
theorem arithmeticFollowsIeee754 : Obligations.ArithmeticFollowsIeee754 := by
  unfold Obligations.ArithmeticFollowsIeee754
  have hmulDiv := @F64.mul_div_round
  have h32 := @rnd32_rounds
  have h16 := @rnd16_rounds
  unfold unitExp at hmulDiv
  unfold unitExp unitExp32 at h32
  unfold unitExp unitExp16 at h16
  refine ⟨fun frac n d m hf hd => roundMag_nearest frac n d m hf hd, fun a b ha hb => ⟨?_, hmulDiv ha hb⟩,
    fun v => ⟨h32, h16⟩, fun a b => F64.nan_operand, fun a b ha hb => ?_, fun a b ha hb => ?_,
    fun a b => F64.div_by_zero, fun a b => F64.compare_of_isFinite⟩
  · rintro r t zeroSign (⟨rfl, rfl, rfl⟩ | ⟨rfl, rfl, rfl⟩)
    · exact F64.add_rounds ha hb
    · exact F64.sub_rounds ha hb
  · obtain ⟨hsame, hopposite⟩ := F64.add_sub_infinities ha hb
    obtain ⟨hmul, hsign, hdiv⟩ := F64.mul_div_infinities ha hb
    exact ⟨hsame, hopposite, hmul, hsign, hdiv, F64.compare_of_isInf ha hb⟩
  · obtain ⟨hadd, hadd', hsub, hsub', hsign⟩ := F64.add_sub_infinity_finite ha hb
    obtain ⟨hdiv, hdivSign, hdiv', hdivSign'⟩ := F64.div_infinity_finite ha hb
    exact ⟨hadd, hadd', hsub, hsub', hsign, F64.mul_infinity_finite ha hb, hdiv, hdivSign, hdiv', hdivSign',
      F64.compare_isInf_isFinite ha hb⟩

end

section
/-! SUPPORT. What a command's completion and an operation from outside can do, said once for each. -/

namespace Sys2Proof.Machine

/-! ### The rules of the commands -/

theorem convertRule_eq_ok {s u : State} : convertRule s = .ok u ↔ ∃ j r, s.job = .ok j ∧
    s.convertRows j s.heightNat 0 (s.headerIfEnabled j).outMem 0 = .ok r ∧
      u = { s with outMem := r.1 }.countClamps r.2 := by
  simp only [convertRule, except_bind_ok, pure, Except.pure, Except.ok.injEq]
  grind

theorem encodeHeaderRule_eq_ok {s u : State} : encodeHeaderRule s = .ok u ↔ ∃ f c,
    DataFormat.ofId s.cfg.format = some f ∧ ColorSpace.ofId s.cfg.dstCs = some c ∧ s.checkDims = .ok () ∧
      u = s.writeHeader f c := by
  simp only [encodeHeaderRule, except_bind_ok, format_eq_ok, target_eq_ok, pure, Except.pure, Except.ok.injEq]
  grind

theorem packRowRule_eq_ok {s u : State} : packRowRule s = .ok u ↔ ∃ j q, s.job = .ok j ∧ s.rowNat < s.heightNat ∧
    s.rowB j s.rowNat = .ok q ∧ u = (s.writeOut (s.rowAddr j s.rowNat) q.bytes).countClamps q.events := by
  simp only [packRowRule, except_bind_ok, pure, Except.pure, Except.ok.injEq, ← checkRow_eq_ok]
  grind

theorem transformRule_eq_ok {s u : State} :
    transformRule s = .ok u ↔ ∃ p, s.pair = .ok p ∧ u = { s with sout := ct s.inst p s.sin } := by
  simp only [transformRule, except_bind_ok, pure, Except.pure, Except.ok.injEq]
  grind

theorem encodePixelRule_eq_ok {s u : State} : encodePixelRule s = .ok u ↔ ∃ f,
    DataFormat.ofId s.cfg.format = some f ∧
      u = (s.setQuantized f (pe f s.sin).bytes).countClamps (pe f s.sin).events := by
  simp only [encodePixelRule, except_bind_ok, format_eq_ok, pure, Except.pure, Except.ok.injEq]
  grind

/-- What the completion of a command leaves of the state `s`: an error report, or the command's results (R139, R155). -/
inductive Completion (s : State) : Instr → State → Prop where
  | error (i : Instr) (c : ErrorCode) : Completion s i (s.fail c)
  | nop : Completion s .nop s.finish
  | convert (j : Job) (r : Memory × Nat) (hjob : s.job = .ok j)
      (hrows : s.convertRows j s.heightNat 0 (s.headerIfEnabled j).outMem 0 = .ok r) :
      Completion s .convert ({ s with outMem := r.1 }.countClamps r.2).finish
  | encodeHeader (f : DataFormat) (c : ColorSpace) : Completion s .encodeHeader (s.writeHeader f c).finish
  | packRow (j : Job) (q : Encoded) (hjob : s.job = .ok j) (hrow : s.rowNat < s.heightNat)
      (hbytes : s.rowB j s.rowNat = .ok q) :
      Completion s .packRow ((s.writeOut (s.rowAddr j s.rowNat) q.bytes).countClamps q.events).finish
  | transform (p : ColorPair) : Completion s .transform { s with sout := ct s.inst p s.sin }.finish
  | encodePixel (f : DataFormat) : Completion s .encodePixel
      ((s.setQuantized f (pe f s.sin).bytes).countClamps (pe f s.sin).events).finish

/-- A rule's completion is one of these when its result is. -/
theorem complete_completion {i : Instr} {s t : State} {r : Except Stop State} (h : complete s r = .next t)
    (hok : ∀ u, r = .ok u → Completion s i u.finish) : Completion s i t := by
  obtain ⟨u, hu, rfl⟩ | ⟨c, _, rfl⟩ := complete_next h
  · exact hok u hu
  · exact .error i c

/-- A command that answers a next state has completed, in one of these ways. -/
theorem exec_completion {i : Instr} {s t : State} (h : exec i s = .next t) : Completion s i t := by
  cases i with
  | nop => cases h; exact .nop
  | convert =>
    refine complete_completion h fun u hu => ?_
    obtain ⟨j, r, hjob, hrows, rfl⟩ := convertRule_eq_ok.1 hu
    exact .convert j r hjob hrows
  | encodeHeader =>
    refine complete_completion h fun u hu => ?_
    obtain ⟨f, c, _, _, _, rfl⟩ := encodeHeaderRule_eq_ok.1 hu
    exact .encodeHeader f c
  | packRow =>
    refine complete_completion h fun u hu => ?_
    obtain ⟨j, q, hjob, hrow, hbytes, rfl⟩ := packRowRule_eq_ok.1 hu
    exact .packRow j q hjob hrow hbytes
  | transform =>
    refine complete_completion h fun u hu => ?_
    obtain ⟨p, _, rfl⟩ := transformRule_eq_ok.1 hu
    exact .transform p
  | encodePixel =>
    refine complete_completion h fun u hu => ?_
    obtain ⟨f, _, rfl⟩ := encodePixelRule_eq_ok.1 hu
    exact .encodePixel f

/-- An illegal word completes with ILLEGAL_CMD, a command as its rule says (R139, R155). -/
theorem engineStep_cases {s t : State} (h : engineStep s = .next t) :
    t = s.fail .illegalCmd ∨ ∃ i, s.curOp = .command i ∧ Completion s i t := by
  unfold engineStep at h
  split at h
  · rename_i i hop
    exact .inr ⟨i, hop, exec_completion h⟩
  · exact .inl (by simpa [execIllegal] using h.symm)

/-! ### The operations from outside -/

/-- A write of a register that is neither CMD nor STATUS is ignored while BUSY = 1 (R23). -/
theorem writeReg_of_ne {s : State} {r : Reg} (v : Word) (hcmd : r ≠ .cmd) (hstatus : r ≠ .status) :
    s.writeReg r v = if s.status.busy then s else s.configure r v := by
  cases r with
  | cmd => exact absurd rfl hcmd
  | status => exact absurd rfl hstatus
  | _ => rfl

/-- All that a write of a register can do. -/
theorem writeReg_cases (s : State) (r : Reg) (v : Word) :
    s.writeReg r v = s.dropCommand ∨ s.writeReg r v = s.issue v ∨ s.writeReg r v = s.clearStatus v ∨
      s.writeReg r v = s ∨ s.writeReg r v = s.configure r v := by
  by_cases hcmd : r = .cmd
  · subst hcmd
    cases hb : s.status.busy <;> simp [State.writeReg, hb]
  · by_cases hstatus : r = .status
    · subst hstatus
      exact .inr (.inr (.inl rfl))
    · rw [writeReg_of_ne v hcmd hstatus]
      cases hb : s.status.busy <;> simp

/-- A write of a register changes no result, parameter or memory (R31, R32). -/
theorem writeReg_frame (s : State) (r : Reg) (v : Word) :
    (s.writeReg r v).sout = s.sout ∧ (s.writeReg r v).qout0 = s.qout0 ∧ (s.writeReg r v).qout1 = s.qout1 ∧
      (s.writeReg r v).status.qlen = s.status.qlen ∧ (s.writeReg r v).inst = s.inst ∧
      (s.writeReg r v).inMem = s.inMem ∧ (s.writeReg r v).outMem = s.outMem := by
  obtain h | h | h | h | h := writeReg_cases s r v
  case inr.inr.inr.inr => rw [h]; cases r <;> simp [State.configure]
  all_goals simp [h]

/-- What an operation from outside that answers a next state does to the state `s`: one write, a read, or the reset. -/
inductive HostEffect (s : State) : HostOp → State → Prop where
  | writeReg (a n : Nat) (v : Word) : HostEffect s (.write .regs a n v) (s.writeReg (Reg.ofOffset a) v)
  | writeIn {a n : Nat} (v : Word) (hfits : a + n ≤ inBytes s.inst) : HostEffect s (.write .input a n v)
      { s with inMem := s.inMem.writeBytes a (bytesLE n v.toNat) }
  | writeOut {a n : Nat} (v : Word) (hfits : a + n ≤ s.inst.outCapacity) :
      HostEffect s (.write .output a n v) (s.writeOut a (bytesLE n v.toNat))
  | read (sp : Space) (a n : Nat) (o : Outside) : HostEffect s (.read sp a n) { s with outside := o }
  | wait (o : Outside) : HostEffect s .wait { s with outside := o }
  | reset : HostEffect s .reset (State.resetOf s.inst s.outside)

/-- A read only hands a value to the host. -/
theorem hostRead_effect {s t : State} {sp : Space} {a n : Nat} (h : hostStep (.read sp a n) s = .next t) :
    ∃ v, t = s.returnRead v := by
  simp only [hostStep] at h
  split at h
  · cases sp with
    | regs => exact ⟨_, by simpa using h.symm⟩
    | input =>
      simp only [State.hostReadIn] at h
      split at h <;> exact ⟨_, by simpa using h.symm⟩
    | output =>
      simp only [State.hostReadOut] at h
      split at h
      · exact ⟨_, by simpa using h.symm⟩
      · cases h
  · cases h

theorem hostWriteIn_next {s t : State} {a n : Nat} {v : Word} (h : s.hostWriteIn a n v = .next t) :
    s.status.busy = false ∧ t = { s with inMem := s.inMem.writeBytes a (bytesLE n v.toNat) } := by
  unfold State.hostWriteIn at h
  split at h
  · cases h
  · simp_all

theorem hostWriteOut_next {s t : State} {a n : Nat} {v : Word} (h : s.hostWriteOut a n v = .next t) :
    s.status.busy = false ∧ t = s.writeOut a (bytesLE n v.toNat) := by
  unfold State.hostWriteOut at h
  split at h
  · cases h
  · simp_all

/-- An operation that answers a next state has had one of these effects. -/
theorem hostStep_effect {s t : State} {op : HostOp} (h : hostStep op s = .next t) : HostEffect s op t := by
  cases op with
  | write sp a n v =>
    simp only [hostStep] at h
    split at h
    · rename_i hlegal
      obtain ⟨_, _, hfits⟩ := accessLegal_iff.1 hlegal
      cases sp with
      | regs => cases h; exact .writeReg a n v
      | input => obtain ⟨_, rfl⟩ := hostWriteIn_next h; exact .writeIn v hfits
      | output => obtain ⟨_, rfl⟩ := hostWriteOut_next h; exact .writeOut v hfits
    · cases h
  | read sp a n =>
    obtain ⟨v, rfl⟩ := hostRead_effect h
    exact .read sp a n _
  | wait =>
    simp only [hostStep] at h
    split at h <;> cases h <;> exact .wait _
  | reset => cases h; exact .reset

end Sys2Proof.Machine
end

section
/-! SUPPORT. The bytes of an encoded pixel in QOUT, reads of memory that meet an unwritten byte, and the rows of an
image: where they lie in OUT and what they read of IN. -/

namespace Sys2Proof.Machine

/-! ### Little-endian bytes -/

theorem bytesLE_getElem? {n v k : Nat} (hk : k < n) : (bytesLE n v)[k]? = some (BitVec.ofNat 8 (v / 256 ^ k)) := by
  induction n generalizing v k with
  | zero => omega
  | succ n ih =>
    cases k with
    | zero => simp [bytesLE]
    | succ k => rw [bytesLE, List.getElem?_cons_succ, ih (by omega), Nat.div_div_eq_div_mul, Nat.pow_succ']

theorem ofBytesLE_append (as bs : List Byte) :
    ofBytesLE (as ++ bs) = ofBytesLE as + 256 ^ as.length * ofBytesLE bs := by
  induction as with
  | nil => simp [ofBytesLE]
  | cons a as ih => simp only [List.cons_append, ofBytesLE, ih, List.length_cons, Nat.pow_succ']; ring

/-- Byte `k` of the integer of a byte sequence: the sequence's own, or 0 past its end. -/
theorem ofBytesLE_byte (bs : List Byte) (k : Nat) :
    BitVec.ofNat 8 (ofBytesLE bs / 256 ^ k) = (bs[k]?).getD 0 := by
  rcases Nat.lt_or_ge k bs.length with hk | hk
  · have hbyte := bytesLE_getElem? (v := ofBytesLE bs) hk
    rw [bytesLE_ofBytesLE] at hbyte
    rw [hbyte, Option.getD_some]
  · rw [List.getElem?_eq_none hk, Nat.div_eq_of_lt
      (Nat.lt_of_lt_of_le (ofBytesLE_lt bs) (Nat.pow_le_pow_right (by omega) hk))]
    rfl

/-- QOUT0 and QOUT1 together hold the integer of an encoded pixel (R32). -/
theorem quantLow_add_quantHigh {q : List Byte} (h : q.length ≤ 16) :
    (quantLow q).toNat + 2 ^ 64 * (quantHigh q).toNat = ofBytesLE q := by
  have hbound : ∀ bs : List Byte, bs.length ≤ 8 → ofBytesLE bs < 2 ^ 64 := fun bs hbs =>
    Nat.lt_of_lt_of_le (ofBytesLE_lt bs) (Nat.pow_le_pow_right (n := 256) (by omega) hbs)
  have hhigh : (q.drop 8).length ≤ 8 := by rw [List.length_drop]; omega
  have hsplit := ofBytesLE_append (q.take 8) (q.drop 8)
  rw [List.take_append_drop] at hsplit
  rw [quantLow, quantHigh, List.take_of_length_le hhigh, BitVec.toNat_ofNat, BitVec.toNat_ofNat,
    Nat.mod_eq_of_lt (hbound _ (List.length_take_le ..)), Nat.mod_eq_of_lt (hbound _ hhigh), hsplit]
  rcases Nat.lt_or_ge q.length 8 with hq | hq
  · simp [List.drop_eq_nil_of_le (Nat.le_of_lt hq), ofBytesLE]
  · simp [Nat.min_eq_left hq]

/-! ### Reads of memory -/

/-- A read that takes in an unwritten byte gives nothing (R43). -/
theorem Memory.readBytes_eq_none {m : Memory} {a n x : Nat} (ha : a ≤ x) (hn : x < a + n) (hx : m.read x = none) :
    m.readBytes a n = none := by
  refine Option.eq_none_iff_forall_ne_some.2 fun bs hbs => ?_
  obtain ⟨hlen, hread⟩ := (Memory.readBytes_eq_some m a n bs).1 hbs
  have hbyte := hread (x - a) (by omega)
  rw [Nat.add_sub_cancel' ha, hx, List.getElem?_eq_getElem (by omega)] at hbyte
  cases hbyte

/-! ### Rows -/

theorem bpp_le_sixteen (f : DataFormat) : f.bpp ≤ 16 := by cases f <;> decide

/-- A row of an image that passes its checks lies in OUT (R129, R142). -/
theorem row_fits {s : State} {j : Job} {y : Nat} (hjob : s.job = .ok j) (hy : y < s.heightNat) :
    s.rowAddr j y + j.fmt.stride s.widthNat ≤ s.inst.outCapacity := by
  obtain ⟨_, _, _, _, _, hfits⟩ := job_eq_ok.1 hjob
  have hmul := Nat.mul_le_mul_right (j.fmt.stride s.widthNat) hy
  rw [Nat.succ_eq_add_one, Nat.add_one_mul] at hmul
  unfold DataFormat.imageSize at hfits
  unfold State.rowAddr
  omega

/-- What every row's write keeps, the rows of an image keep. -/
theorem convertRows_keeps {s : State} {j : Job} {P : Memory → Prop}
    (hrow : ∀ m y q, y < s.heightNat → s.rowB j y = .ok q → P m → P (m.writeBytes (s.rowAddr j y) q.bytes))
    {n y ev : Nat} {m : Memory} {r : Memory × Nat} (h : s.convertRows j n y m ev = .ok r) (hy : y + n ≤ s.heightNat)
    (hm : P m) : P r.1 := by
  induction n generalizing y m ev with
  | zero => cases h; exact hm
  | succ n ih =>
    obtain ⟨q, hq, hrest⟩ := convertRows_succ.1 h
    exact ih hrest (by omega) (hrow m y q (by omega) hq hm)

/-- Rows encode exactly when each of them does. -/
theorem convertRows_ok_iff {s : State} {j : Job} {n y ev : Nat} {m : Memory} :
    (∃ r, s.convertRows j n y m ev = .ok r) ↔ ∀ k, k < n → ∃ q, s.rowB j (y + k) = .ok q := by
  induction n generalizing y m ev with
  | zero => simp [State.convertRows]
  | succ n ih =>
    have ih' := @ih (y + 1)
    simp only [Nat.add_assoc, Nat.add_comm 1] at ih'
    simp only [convertRows_succ, Nat.forall_lt_succ_left, Nat.add_zero]
    constructor
    · rintro ⟨r, q, hq, hr⟩
      exact ⟨⟨q, hq⟩, ih'.1 ⟨r, hr⟩⟩
    · rintro ⟨⟨q, hq⟩, hrest⟩
      obtain ⟨r, hr⟩ := ih'.2 hrest
      exact ⟨r, q, hq, hr⟩

/-- Rows that do not encode met an unwritten sample, and nothing else (R130). -/
theorem convertRows_error {s : State} {j : Job} {n y ev : Nat} {m : Memory} {e : Stop}
    (h : s.convertRows j n y m ev = .error e) : e = .fault .unwrittenIn := by
  induction n generalizing y m ev with
  | zero => cases h
  | succ n ih =>
    simp only [State.convertRows] at h
    cases hq : s.rowB j y with
    | error e' => rw [hq] at h; cases h; exact rowB_error hq
    | ok q => rw [hq] at h; exact ih h

/-- A row encodes exactly when its samples are written (R130). -/
theorem rowB_ok_iff {s : State} {j : Job} {y : Nat} :
    (∃ q, s.rowB j y = .ok q) ↔ s.samplesWritten (y * s.widthNat) s.widthNat := by
  simp only [rowB_eq_ok, State.samplesWritten, ← encodePixels_ok_iff (j := j)]
  grind

/-- The samples of an image are those of its rows. -/
theorem samplesWritten_image {s : State} {w h : Nat} (hrows : ∀ y, y < h → s.samplesWritten (y * w) w) :
    s.samplesWritten 0 (w * h) := by
  intro k hk
  have hw : 0 < w := Nat.pos_of_mul_pos_right (Nat.zero_lt_of_lt hk)
  have hsample := hrows (k / w) ((Nat.div_lt_iff_lt_mul hw).2 (by rwa [Nat.mul_comm])) (k % w) (Nat.mod_lt k hw)
  rwa [Nat.mul_comm, Nat.div_add_mod, ← Nat.zero_add k] at hsample

end Sys2Proof.Machine
end

section
/-! PROOF. The invariant, operation by operation: what each operation of the block, each completion and each operation
from outside keeps, and so every step: StepKeepsTheInvariant. -/

namespace Sys2Proof.Machine

/-- A memory in canonical form with no byte at `n` or past it. -/
def Memory.Within (m : Memory) (n : Nat) : Prop := m.wf = true ∧ m.below n = true

theorem Memory.Within.writeBytes {m : Memory} {n a : Nat} {bs : List Byte} (h : m.Within n) (ha : a + bs.length ≤ n) :
    (m.writeBytes a bs).Within n :=
  ⟨Memory.writeBytes_wf m a bs h.1, Memory.writeBytes_below m a n bs h.2 ha⟩

/-- What the invariant says of STATUS. -/
structure Status.Consistent (t : Status) : Prop where
  errcodeIffErr : t.err = false ↔ t.errcode = 0
  errcodeMax : t.errcode.toNat ≤ 8
  busyReportsNothing : t.busy = true → t.done = false ∧ t.err = false

theorem Status.Consistent.finished {t : Status} (h : t.Consistent) : t.finished.Consistent :=
  ⟨h.errcodeIffErr, h.errcodeMax, by simp⟩

theorem Status.failed_consistent (t : Status) (c : ErrorCode) : (t.failed c).Consistent := by
  constructor <;> cases c <;> simp [ErrorCode.number]

theorem Status.issued_consistent (t : Status) : t.issued.Consistent := by constructor <;> simp

theorem Status.Consistent.overrun {t : Status} (h : t.Consistent) : t.overrun.Consistent :=
  ⟨h.errcodeIffErr, h.errcodeMax, h.busyReportsNothing⟩

theorem Status.Consistent.clearWrittenOnes {t : Status} (h : t.Consistent) (v : Word) :
    (t.clearWrittenOnes v).Consistent := by
  obtain ⟨hiff, hmax, hbusy⟩ := h
  constructor
  · rw [Status.clearWrittenOnes_err, Status.clearWrittenOnes_errcode]
    cases v.getLsbD 2 <;> simp [hiff]
  · rw [Status.clearWrittenOnes_errcode]
    cases v.getLsbD 2 <;> simp [hmax]
  · simp +contextual [hbusy]

namespace State.Inv

variable {s : State}

/-! ### One rule per part of the state that an operation replaces -/

theorem out (h : s.Inv) : s.outMem.Within s.inst.outCapacity := ⟨h.outWf, h.outBelow⟩

theorem input (h : s.Inv) : s.inMem.Within (inBytes s.inst) := ⟨h.inWf, h.inBelow⟩

theorem consistent (h : s.Inv) : s.status.Consistent := ⟨h.errcodeIffErr, h.errcodeMax, h.busyReportsNothing⟩

/-- A legal OUT holds at least a header (R172). -/
theorem sixteen_le (h : s.Inv) : 16 ≤ s.inst.outCapacity := by
  have hlegal := h.legal
  simp only [Instance.wellFormed, Bool.and_eq_true, decide_eq_true_eq] at hlegal
  exact hlegal.1.2

theorem setOut (h : s.Inv) {m : Memory} (hm : m.Within s.inst.outCapacity) : { s with outMem := m }.Inv :=
  { h with outWf := hm.1, outBelow := hm.2 }

theorem setIn (h : s.Inv) {m : Memory} (hm : m.Within (inBytes s.inst)) : { s with inMem := m }.Inv :=
  { h with inWf := hm.1, inBelow := hm.2 }

theorem setStatus (h : s.Inv) {t : Status} (ht : t.Consistent) (hqlen : t.qlen = s.status.qlen) :
    { s with status := t }.Inv :=
  { h with
    errcodeIffErr := ht.errcodeIffErr
    errcodeMax := ht.errcodeMax
    busyReportsNothing := ht.busyReportsNothing
    quantized := by simpa only [hqlen] using h.quantized }

theorem setOutside (h : s.Inv) (o : Outside) : { s with outside := o }.Inv := { h with }

/-! ### The operations of a completion -/

theorem finish (h : s.Inv) : s.finish.Inv := h.setStatus h.consistent.finished rfl

theorem fail (h : s.Inv) (c : ErrorCode) : (s.fail c).Inv := h.setStatus (s.status.failed_consistent c) rfl

theorem countClamps (h : s.Inv) (n : Nat) : (s.countClamps n).Inv :=
  { h with noCounter := fun hc => by simpa [show s.inst.hasClampCounter = false from hc] using h.noCounter hc }

theorem writeOut (h : s.Inv) {a : Nat} {bs : List Byte} (ha : a + bs.length ≤ s.inst.outCapacity) :
    (s.writeOut a bs).Inv := h.setOut (h.out.writeBytes ha)

theorem writeHeader (h : s.Inv) (f : DataFormat) (c : ColorSpace) : (s.writeHeader f c).Inv :=
  h.writeOut (by simpa using h.sixteen_le)

theorem setSout (h : s.Inv) (v : Sample) : { s with sout := v }.Inv := { h with }

/-- An encoded pixel of BPP bytes leaves 0 in QOUT from QLEN up (R32). -/
theorem setQuantized (h : s.Inv) {f : DataFormat} {q : List Byte} (hq : q.length = f.bpp) :
    (s.setQuantized f q).Inv :=
  have hbpp := bpp_le_sixteen f
  have hqlen : (BitVec.ofNat 5 f.bpp).toNat = f.bpp := by rw [BitVec.toNat_ofNat]; omega
  { h with
    quantized := by
      simp only [setQuantized_qout0, setQuantized_qout1, setQuantized_status, hqlen]
      rw [quantLow_add_quantHigh (by omega), ← hq]
      exact ⟨ofBytesLE_lt q, by omega⟩ }

/-- The rows of an image that fits lie in OUT. -/
theorem convertRows (h : s.Inv) {j : Job} {r : Memory × Nat} (hjob : s.job = .ok j)
    (hrows : s.convertRows j s.heightNat 0 (s.headerIfEnabled j).outMem 0 = .ok r) : { s with outMem := r.1 }.Inv := by
  have hheader : (s.headerIfEnabled j).outMem.Within s.inst.outCapacity := by
    unfold State.headerIfEnabled
    split
    · exact (h.writeHeader j.fmt j.pair.target).out
    · exact h.out
  refine h.setOut (convertRows_keeps (P := (·.Within s.inst.outCapacity)) (fun m y q hy hq hm => ?_) hrows (by omega)
    hheader)
  exact hm.writeBytes (by simpa only [rowB_length hq] using row_fits hjob hy)

/-- Every completion of a command keeps the invariant. -/
theorem completion {i : Instr} {t : State} (h : s.Inv) (hc : Completion s i t) : t.Inv := by
  cases hc with
  | error _ c => exact h.fail c
  | nop => exact h.finish
  | convert j r hjob hrows => exact ((h.convertRows hjob hrows).countClamps _).finish
  | encodeHeader f c => exact (h.writeHeader f c).finish
  | packRow j q hjob hrow hbytes =>
    exact ((h.writeOut (by simpa only [rowB_length hbytes] using row_fits hjob hrow)).countClamps _).finish
  | transform p => exact (h.setSout _).finish
  | encodePixel f => exact ((h.setQuantized (pe_length f s.sin)).countClamps _).finish

/-! ### The operations from outside -/

theorem configure (h : s.Inv) (r : Reg) (v : Word) : (s.configure r v).Inv := by
  cases r with
  | clampCount =>
    refine { h with noCounter := fun hc => ?_ }
    simpa [State.configure, show s.inst.hasClampCounter = false from hc] using h.noCounter hc
  | _ => exact { h with }

theorem writeReg (h : s.Inv) (r : Reg) (v : Word) : (s.writeReg r v).Inv := by
  obtain hw | hw | hw | hw | hw := writeReg_cases s r v <;> rw [hw]
  · exact h.setStatus h.consistent.overrun rfl
  · exact { h.setStatus s.status.issued_consistent rfl with }
  · exact h.setStatus (h.consistent.clearWrittenOnes v) rfl
  · exact h
  · exact h.configure r v

end State.Inv

/-- The state after reset with legal parameters has the invariant (R169, R172). -/
theorem State.resetOf_inv {p : Instance} (o : Outside) (h : p.wellFormed = true) : (State.resetOf p o).Inv where
  legal := h
  inWf := rfl
  outWf := rfl
  inBelow := rfl
  outBelow := rfl
  errcodeIffErr := by simp [State.resetOf]
  errcodeMax := by simp [State.resetOf]
  busyReportsNothing := by simp [State.resetOf]
  quantized := by simp [State.resetOf]
  noCounter := fun _ => rfl

/-- Every operation from outside keeps the invariant. -/
theorem State.Inv.hostEffect {s t : State} {op : HostOp} (h : s.Inv) (he : HostEffect s op t) : t.Inv := by
  cases he with
  | writeReg a n v => exact h.writeReg _ v
  | writeIn v hfits => exact h.setIn (h.input.writeBytes (by simpa using hfits))
  | writeOut v hfits => exact h.writeOut (by simpa using hfits)
  | read sp a n o => exact h.setOutside o
  | wait o => exact h.setOutside o
  | reset => exact State.resetOf_inv _ h.legal

/-! ### The parameters -/

theorem Completion.inst {s t : State} {i : Instr} (h : Completion s i t) : t.inst = s.inst := by cases h <;> rfl

theorem HostEffect.inst {s t : State} {op : HostOp} (h : HostEffect s op t) : t.inst = s.inst := by
  cases h with
  | writeReg a n v =>
    obtain ⟨_, _, _, _, hinst, _⟩ := writeReg_frame s (Reg.ofOffset a) v
    exact hinst
  | _ => rfl

/-! ### Steps -/

/-- An outcome that keeps the invariant and the parameters where it is next. -/
def KeepsInv (s : State) (o : Host.Outcome State Fault Refusal) : Prop :=
  ∀ t, o = .next t → t.Inv ∧ t.inst = s.inst

theorem engineStep_keepsInv {s : State} (h : s.Inv) : KeepsInv s (engineStep s) := by
  intro t ht
  obtain rfl | ⟨i, _, hc⟩ := engineStep_cases ht
  · exact ⟨h.fail _, rfl⟩
  · exact ⟨h.completion hc, hc.inst⟩

theorem hostStep_keepsInv {s : State} (h : s.Inv) (op : HostOp) : KeepsInv s (hostStep op s) := by
  intro t ht
  exact ⟨h.hostEffect (hostStep_effect ht), (hostStep_effect ht).inst⟩

/-- A fault's mark is no part of the invariant. -/
theorem settle_keepsInv {s : State} {o : Host.Outcome State Fault Refusal} (h : s.Inv) (ho : KeepsInv s o) :
    KeepsInv s (s.settle o) := by
  intro t ht
  obtain hnext | ⟨f, _, rfl⟩ := settle_eq_next ht
  · exact ho t hnext
  · exact ⟨{ h with }, rfl⟩

end Sys2Proof.Machine

open Sys2Proof Sys2Proof.Machine

/-- Settles O59: a step is a reset, nothing, a completion or an operation from outside, and each keeps the invariant. -/
theorem stepKeepsTheInvariant : Obligations.StepKeepsTheInvariant := by
  intro s t h hstep
  have hturn : s.useTurn.Inv := h.setOutside _
  obtain ⟨_, rfl⟩ | ⟨_, ⟨_, rfl⟩ | ⟨_, hengine⟩ | ⟨op, _, hhost⟩⟩ := step_cases hstep
  · exact ⟨State.resetOf_inv _ h.legal, rfl⟩
  · exact ⟨h, rfl⟩
  · exact settle_keepsInv hturn (engineStep_keepsInv hturn) t hengine
  · have htaken : s.useTurn.takeOp.Inv := hturn.setOutside _
    exact settle_keepsInv htaken (hostStep_keepsInv htaken op) t hhost

end

section
/-! PROOF. What the engine's completions write: EncodePixelFillsResultRegisters, UnwrittenSampleFaults,
EngineWritesOnlyItsResults, InterruptFollowsDone. -/

namespace Sys2Proof.Machine

theorem exec_encodePixel {s : State} {f : DataFormat} (hf : DataFormat.ofId s.cfg.format = some f) :
    exec .encodePixel s =
      .next ((s.setQuantized f (pe f s.sin).bytes).countClamps (pe f s.sin).events).finish := by
  have hrule := encodePixelRule_eq_ok.2 ⟨f, hf, rfl⟩
  simp only [exec, execEncodePixel, hrule, complete_ok]

/-- Byte `k` of QOUT1 and QOUT0 is byte `k` of the encoded pixel, or 0 past its end (R32). -/
theorem quant_byte {q : List Byte} (h : q.length ≤ 16) (k : Nat) :
    (quantHigh q ++ quantLow q).extractLsb' (8 * k) 8 = (q[k]?).getD 0 := by
  rw [← ofBytesLE_byte, ← quantLow_add_quantHigh h]
  apply BitVec.eq_of_toNat_eq
  rw [BitVec.extractLsb'_toNat, BitVec.toNat_append, Nat.shiftRight_eq_div_pow, BitVec.toNat_ofNat, Nat.pow_mul,
    Nat.shiftLeft_eq, Nat.mul_comm, ← Nat.two_pow_add_eq_or_of_lt (quantLow q).isLt, Nat.add_comm]

/-- The count saturates at its largest value (R33). -/
theorem saturatingCount_toNat (c : Word) (n : Nat) :
    (saturatingCount c n).toNat = min (c.toNat + n) (2 ^ 64 - 1) := by
  rw [saturatingCount, BitVec.toNat_ofNat, Nat.mod_eq_of_lt (by omega)]

theorem State.Convertible.job_ok {s : State} {j : Job} (h : s.Convertible j) : s.job = .ok j :=
  job_eq_ok.2 ⟨h.fmt, pair_eq_ok.2 h.pair, h.width, h.height, h.input, h.output⟩

/-- CONVERT faults where its rows meet an unwritten sample (R130). -/
theorem exec_convert_fault {s : State} {j : Job} (hjob : s.job = .ok j)
    (hunwritten : ¬s.samplesWritten 0 (s.widthNat * s.heightNat)) : exec .convert s = .fault .unwrittenIn := by
  cases hrows : s.convertRows j s.heightNat 0 (s.headerIfEnabled j).outMem 0 with
  | ok r =>
    refine absurd (samplesWritten_image fun y hy => (rowB_ok_iff (j := j)).1 ?_) hunwritten
    simpa using convertRows_ok_iff.1 ⟨r, hrows⟩ y hy
  | error e =>
    obtain rfl := convertRows_error hrows
    simp [exec, execConvert, convertRule, hjob, hrows, bind, Except.bind]

/-- PACK_ROW faults where its row meets an unwritten sample (R130). -/
theorem exec_packRow_fault {s : State} {j : Job} (hjob : s.job = .ok j) (hrow : s.rowNat < s.heightNat)
    (hunwritten : ¬s.samplesWritten (s.rowNat * s.widthNat) s.widthNat) : exec .packRow s = .fault .unwrittenIn := by
  cases hbytes : s.rowB j s.rowNat with
  | ok q => exact absurd (rowB_ok_iff.1 ⟨q, hbytes⟩) hunwritten
  | error e =>
    obtain rfl := rowB_error hbytes
    simp [exec, execPackRow, packRowRule, hjob, checkRow_eq_ok.2 hrow, hbytes, bind, Except.bind]

/-- What every completion leaves as it was (R16, R70). -/
theorem Completion.frame {i : Instr} {s t : State} (h : Completion s i t) :
    t.inst = s.inst ∧ t.cfg = s.cfg ∧ t.width = s.width ∧ t.height = s.height ∧ t.row = s.row ∧ t.sin = s.sin ∧
      t.curOp = s.curOp ∧ t.inMem = s.inMem ∧ t.faultMark = s.faultMark ∧ t.outside = s.outside ∧
      t.status.ovr = s.status.ovr := by
  cases h <;> simp [State.writeHeader]

/-- Every completion sets DONE (R155). -/
theorem Completion.done {i : Instr} {s t : State} (h : Completion s i t) : t.status.done = true := by
  cases h <;> rfl

/-- Every completion of the engine sets DONE and keeps CFG (R155). -/
theorem engineStep_done {s t : State} (h : engineStep s = .next t) : t.status.done = true ∧ t.cfg = s.cfg := by
  obtain rfl | ⟨i, _, hc⟩ := engineStep_cases h
  · exact ⟨rfl, rfl⟩
  · obtain ⟨_, hcfg, _⟩ := hc.frame
    exact ⟨hc.done, hcfg⟩

end Sys2Proof.Machine

open Sys2Proof Sys2Proof.Machine

/-- Settles O18: QOUT1 and QOUT0 are the integer of the encoded bytes, at most sixteen of them. -/
theorem encodePixelFillsResultRegisters : Obligations.EncodePixelFillsResultRegisters := by
  intro s f hf
  have hbpp := bpp_le_sixteen f
  refine ⟨_, exec_encodePixel hf, fun k _ => quant_byte (by rw [pe_length]; exact hbpp) k, ?_, ?_, ?_, rfl⟩
  · simp only [State.finish_status, Status.finished_qlen, State.countClamps_status, State.setQuantized_status,
      BitVec.toNat_ofNat]
    omega
  · intro hc
    simp [hc, saturatingCount_toNat]
  · intro hc
    simp [hc]

/-- Settles O24: rows encode exactly when their samples are written, and the only error left is the fault. -/
theorem unwrittenSampleFaults : Obligations.UnwrittenSampleFaults := fun _ _ hs =>
  ⟨exec_convert_fault hs.job_ok, exec_packRow_fault hs.job_ok⟩

/-- Settles O25, from the inversion of `exec`, one completion at a time. -/
theorem engineWritesOnlyItsResults : Obligations.EngineWritesOnlyItsResults := by
  intro i s t h
  have hc := exec_completion h
  refine ⟨hc.frame, ?_⟩
  cases hc <;> simp [State.readOut, State.writeHeader]

/-- Settles O44: a completion sets DONE and keeps CFG; an issue clears DONE. -/
theorem interruptFollowsDone : Obligations.InterruptFollowsDone := by
  intro s
  refine ⟨by simp [State.irq], fun v hb => ?_, fun t ht hen => ?_, fun v hv => ?_, fun w hb => ?_⟩
  · rw [writeReg_of_ne v (by decide) (by decide), if_pos hb]
  · obtain ⟨hdone, hcfg⟩ := engineStep_done ht
    simp [State.irq, hdone, hcfg, hen]
  · simp [State.irq, State.writeReg, State.clearStatus, hv]
  · simp [State.irq, State.writeReg, hb]

end

section
/-! PROOF. What the host's accesses to OUT do, and what no operation of the host changes: OutWriteReadsBack,
UnwrittenOutReadFaults, HostNeverWritesResults. -/

namespace Sys2Proof.Machine

/-- Byte `k` of a little-endian word is its field of 8 bits from bit `8 k` up (R52). -/
theorem bytesLE_getElem?_word {n k : Nat} (v : Word) (hk : k < n) :
    (bytesLE n v.toNat)[k]? = some (v.extractLsb' (8 * k) 8) := by
  rw [bytesLE_getElem? hk, Option.some.injEq]
  apply BitVec.eq_of_toNat_eq
  rw [BitVec.extractLsb'_toNat, Nat.shiftRight_eq_div_pow, Nat.pow_mul, BitVec.toNat_ofNat]

theorem hostStep_write_out {s : State} {a n : Nat} (v : Word) (hb : s.status.busy = false)
    (hlegal : s.accessLegal .output a n = true) :
    hostStep (.write .output a n v) s = .next (s.writeOut a (bytesLE n v.toNat)) := by
  simp [hostStep, hlegal, State.hostWriteOut, hb]

/-- A legal read of OUT is the read of its bytes. -/
theorem hostStep_read_out {s : State} {a n : Nat} (hlegal : s.accessLegal .output a n = true) :
    hostStep (.read .output a n) s = s.hostReadOut a n := by
  simp [hostStep, hlegal]

/-- Whether an access is legal depends on the parameters alone. -/
theorem accessLegal_writeOut (s : State) (sp : Space) (a n b : Nat) (bs : List Byte) :
    (s.writeOut b bs).accessLegal sp a n = s.accessLegal sp a n := by
  cases sp <;> rfl

/-- Bytes of OUT that are written read back as they are while BUSY = 0 (R52). -/
theorem hostReadOut_of_bytes {s : State} {a n : Nat} {bs : List Byte} (hb : s.status.busy = false)
    (hbs : s.outMem.readBytes a n = some bs) :
    s.hostReadOut a n = .next (s.returnRead (BitVec.ofNat 64 (ofBytesLE bs))) := by
  simp [State.hostReadOut, hbs, hb]

end Sys2Proof.Machine

open Sys2Proof Sys2Proof.Machine

/-- Settles O48: reading after writing, on the memory and on little-endian bytes. -/
theorem outWriteReadsBack : Obligations.OutWriteReadsBack := by
  intro s a n v hb hlegal
  have hread := Memory.readBytes_writeBytes s.outMem a (bytesLE n v.toNat)
  rw [bytesLE_length] at hread
  refine ⟨_, _, hostStep_write_out v hb hlegal, fun k hk => ?_, fun x hx => ?_, rfl,
    (hostStep_read_out (by rwa [accessLegal_writeOut])).trans (hostReadOut_of_bytes hb hread), ?_⟩
  · rw [State.readOut, State.writeOut_outMem, Memory.read_writeBytes, bytesLE_length, if_pos (by omega),
      Nat.add_sub_cancel_left, bytesLE_getElem?_word v hk]
  · exact Memory.read_writeBytes_outside _ _ _ _ (by rwa [bytesLE_length])
  · simp [ofBytesLE_bytesLE]

/-- Settles O50: no bytes are read where one of them is unwritten. -/
theorem unwrittenOutReadFaults : Obligations.UnwrittenOutReadFaults := by
  intro s a n x hlegal ha hn hx
  rw [hostStep_read_out hlegal, State.hostReadOut, Memory.readBytes_eq_none ha hn hx]

/-- Settles O52, from the inversion of `hostStep`: only a write changes the block, and only the space it writes. -/
theorem hostNeverWritesResults : Obligations.HostNeverWritesResults := by
  intro s t op hreset h
  cases hostStep_effect h with
  | writeReg a n v =>
    obtain ⟨hsout, hqout0, hqout1, hqlen, hinst, hin, hout⟩ := writeReg_frame s (Reg.ofOffset a) v
    exact ⟨hsout, hqout0, hqout1, hqlen, hinst, fun _ => hin, fun _ => hout, fun hne => absurd rfl (hne a n v)⟩
  | writeIn v => simp
  | writeOut v => simp
  | read sp a n o => simp
  | wait o => simp
  | reset => exact absurd rfl hreset

end

section
/-! PROOF. The register window: ErrorCodesReadInStatus, SizeRegistersReadTheGeometry, StatusLayoutAndWriteOneToClear,
ConfigurationReadsBack, BusyIgnoresConfigurationWrites, RegisterMapAndReadOnlyRegisters,
ClampCounterSaturatesAndClears. -/

namespace Sys2Proof.Machine

/-! ### STATUS and CFG as words: fields that do not overlap add up -/

/-- A field at bit `k` above a word of `k` bits adds to it. -/
theorem or_field {x y k : Nat} (hx : x < 2 ^ k) :
    BitVec.ofNat 64 x ||| BitVec.ofNat 64 (y * 2 ^ k) = BitVec.ofNat 64 (x + y * 2 ^ k) := by
  rw [← BitVec.ofNat_or, Nat.or_comm, Nat.mul_comm, ← Nat.two_pow_add_eq_or_of_lt hx, Nat.add_comm]

theorem Status.word_eq (t : Status) : t.word = BitVec.ofNat 64 (t.busy.toNat + t.done.toNat * 2 ^ 1 +
    t.err.toNat * 2 ^ 2 + t.ovr.toNat * 2 ^ 3 + t.errcode.toNat * 2 ^ 8 + t.qlen.toNat * 2 ^ 16) := by
  have hbusy := t.busy.toNat_lt
  have hdone := t.done.toNat_lt
  have herr := t.err.toNat_lt
  have hovr := t.ovr.toNat_lt
  have herrcode := t.errcode.isLt
  simp only [Status.word, bitAt, Nat.pow_zero, Nat.mul_one]
  rw [or_field (by omega), or_field (by omega), or_field (by omega), or_field (by omega), or_field (by omega)]

theorem Cfg.word_eq (c : Cfg) : c.word = BitVec.ofNat 64 (c.format.toNat + c.srcCs.toNat * 2 ^ 4 +
    c.dstCs.toNat * 2 ^ 8 + c.hdrEn.toNat * 2 ^ 16 + c.irqEn.toNat * 2 ^ 17) := by
  have hformat := c.format.isLt
  have hsrc := c.srcCs.isLt
  have hdst := c.dstCs.isLt
  have hhdr := c.hdrEn.toNat_lt
  simp only [Cfg.word, bitAt, ← BitVec.ofNat_toNat]
  rw [or_field (by omega), or_field (by omega), or_field (by omega), or_field (by omega)]

/-- A bit of a word, read off its integer. -/
theorem getLsbD_ofNat_of_div {x k : Nat} {b : Bool} (hk : k < 64) (h : x / 2 ^ k % 2 = b.toNat) :
    (BitVec.ofNat 64 x).getLsbD k = b := by
  rw [BitVec.getLsbD_ofNat, Nat.testBit_eq_decide_div_mod_eq, h]
  cases b <;> simp [hk]

/-- A field of a word, read off its integer. -/
theorem extractLsb'_ofNat_of_div {x lo len : Nat} {y : BitVec len} (hx : x < 2 ^ 64)
    (h : x / 2 ^ lo % 2 ^ len = y.toNat) : (BitVec.ofNat 64 x).extractLsb' lo len = y := by
  apply BitVec.eq_of_toNat_eq
  rw [← h, BitVec.extractLsb'_toNat, BitVec.toNat_ofNat, Nat.mod_eq_of_lt hx, Nat.shiftRight_eq_div_pow]

theorem extractLsb'_ofNat_eq_zero {x lo len : Nat} (hx : x < 2 ^ 64) (h : x / 2 ^ lo % 2 ^ len = 0) :
    (BitVec.ofNat 64 x).extractLsb' lo len = 0 :=
  extractLsb'_ofNat_of_div hx (by simpa using h)

theorem field_toNat (v : Word) (lo len : Nat) : (field v lo len).toNat = v.toNat / 2 ^ lo % 2 ^ len := by
  rw [field, BitVec.extractLsb'_toNat, Nat.shiftRight_eq_div_pow]

theorem getLsbD_toNat (v : Word) (k : Nat) : (v.getLsbD k).toNat = v.toNat / 2 ^ k % 2 := Nat.toNat_testBit _ _

/-- The low 32 bits of a word (R25 to R27). -/
theorem field_setWidth (v : Word) : (field v 0 32).setWidth 64 = v &&& 0xFFFFFFFF := by
  apply BitVec.eq_of_toNat_eq
  rw [BitVec.toNat_setWidth, field_toNat, BitVec.toNat_and, show (0xFFFFFFFF : Word).toNat = 2 ^ 32 - 1 from rfl,
    Nat.and_two_pow_sub_one_eq_mod]
  omega

/-- Two fields of a word that meet are one. -/
theorem adjacent_fields (n lo k l : Nat) :
    n / 2 ^ lo % 2 ^ (k + l) = n / 2 ^ lo % 2 ^ k + 2 ^ k * (n / 2 ^ (lo + k) % 2 ^ l) := by
  rw [Nat.pow_add, Nat.mod_mul, Nat.div_div_eq_div_mul, ← Nat.pow_add]

/-- The bits of a word that CFG holds, in two runs: 11:0, and 17:16 (R21). -/
theorem and_cfgMask (n : Nat) : n &&& 0x30FFF = n % 2 ^ 12 + n / 2 ^ 16 % 2 ^ 2 * 2 ^ 16 := by
  have hlow : (n &&& 0x30FFF) % 2 ^ 16 = n % 2 ^ 16 % 2 ^ 12 := by
    rw [Nat.and_mod_two_pow, ← Nat.and_two_pow_sub_one_eq_mod _ 12]
  have hhigh : (n &&& 0x30FFF) / 2 ^ 16 = n / 2 ^ 16 % 2 ^ 2 := by
    rw [Nat.and_div_two_pow, ← Nat.and_two_pow_sub_one_eq_mod _ 2]
  omega

/-- CFG reads back the word written, its reserved bits 0 (R21, R22). -/
theorem Cfg.word_ofWord (v : Word) : (Cfg.ofWord v).word = v &&& 0x30FFF := by
  rw [Cfg.word_eq]
  apply BitVec.eq_of_toNat_eq
  simp only [Cfg.ofWord, field_toNat, getLsbD_toNat]
  rw [BitVec.toNat_and, show (0x30FFF : Word).toNat = 0x30FFF from rfl, and_cfgMask, BitVec.toNat_ofNat]
  have hformat := adjacent_fields v.toNat 0 4 8
  have hspaces := adjacent_fields v.toNat 4 4 4
  have hflags := adjacent_fields v.toNat 16 1 1
  simp only [Nat.reduceAdd, Nat.reducePow, Nat.div_one] at *
  omega

/-! ### Reads and writes of the registers -/

/-- The two size registers read their values whether BUSY is 0 or 1 (R28, R29). -/
theorem readReg_outSize (s : State) (free : Word) : s.readReg free .outSize = s.outSize := by
  unfold State.readReg; split <;> rfl

theorem readReg_rowStride (s : State) (free : Word) : s.readReg free .rowStride = s.rowStride := by
  unfold State.readReg; split <;> rfl

theorem readReg_idle {s : State} (free : Word) (r : Reg) (hb : s.status.busy = false) :
    s.readReg free r = s.regValue r := by
  simp [State.readReg, hb]

/-- A write of a configuration register takes effect while BUSY = 0. -/
theorem writeReg_idle {s : State} {r : Reg} (v : Word) (hb : s.status.busy = false) (hcmd : r ≠ .cmd)
    (hstatus : r ≠ .status) : s.writeReg r v = s.configure r v := by
  simp [writeReg_of_ne v hcmd hstatus, hb]

/-- A write of a configuration register is ignored while BUSY = 1 (R23). -/
theorem writeReg_busy {s : State} {r : Reg} (v : Word) (hb : s.status.busy = true) (hcmd : r ≠ .cmd)
    (hstatus : r ≠ .status) : s.writeReg r v = s := by
  simp [writeReg_of_ne v hcmd hstatus, hb]

/-- A register that holds nothing a write could change ignores writes, whether BUSY is 0 or 1 (R18, R35). -/
theorem writeReg_readOnly {s : State} {r : Reg} (v : Word) (hcmd : r ≠ .cmd) (hstatus : r ≠ .status)
    (hr : s.configure r v = s) : s.writeReg r v = s := by
  rw [writeReg_of_ne v hcmd hstatus, hr, ite_self]

/-- R152, R155: the STATUS word of an error from reset. -/
theorem regValue_status_fail_resetOf (p : Instance) (o : Outside) (c : ErrorCode) :
    ((State.resetOf p o).fail c).regValue .status = BitVec.ofNat 64 (c.number.toNat * 0x100 + 0x006) := by
  rw [State.regValue, State.fail_status, Status.word_eq]
  refine congrArg (BitVec.ofNat 64) ?_
  simp [State.resetOf, Nat.add_comm]

/-- Ids 10 to 15 are no format (R67). -/
theorem ofId_eq_none : ∀ id : BitVec 4, 9 < id.toNat → DataFormat.ofId id = none := by decide

/-- R29: a row of at most `2^32 - 1` pixels of at most 16 bytes, and at most 3 bytes of padding. -/
theorem stride_le (f : DataFormat) (w : BitVec 32) : f.stride w.toNat ≤ 16 * (2 ^ 32 - 1) + 3 := by
  have hrow : w.toNat * f.bpp ≤ (2 ^ 32 - 1) * 16 := Nat.mul_le_mul (by omega) (bpp_le_sixteen f)
  have hpad : f.pad w.toNat ≤ 3 := by
    unfold DataFormat.pad
    split <;> omega
  unfold DataFormat.stride DataFormat.rowBytes
  omega

/-- OUT_SIZE is the image's size, saturated (R28). -/
theorem outSize_toNat {s : State} {f : DataFormat} (hf : DataFormat.ofId s.cfg.format = some f) :
    s.outSize.toNat = min (f.imageSize s.cfg.hdrEn s.width.toNat s.height.toNat) (2 ^ 64 - 1) := by
  simp only [State.outSize, hf, State.widthNat, State.heightNat, BitVec.toNat_ofNat]
  omega

/-- ROW_STRIDE is the stride (R29). -/
theorem rowStride_toNat {s : State} {f : DataFormat} (hf : DataFormat.ofId s.cfg.format = some f) :
    s.rowStride.toNat = f.stride s.width.toNat := by
  have hle := stride_le f s.width
  simp only [State.rowStride, hf, State.widthNat, BitVec.toNat_ofNat]
  omega

theorem lane_setLane_self (x : Sample) (k : Fin 4) (v : Word) : (x.setLane k v).lane k = v := by
  fin_cases k <;> rfl

theorem lane_setLane_of_ne (x : Sample) {k l : Fin 4} (v : Word) (h : l ≠ k) : (x.setLane k v).lane l = x.lane l := by
  fin_cases k <;> fin_cases l <;> simp_all [Sample.setLane, Sample.lane]

end Sys2Proof.Machine

open Sys2Proof Sys2Proof.Machine

/-- Settles O7: each code's word is its number in bits 11:8, ERR and DONE. -/
theorem errorCodesReadInStatus : Obligations.ErrorCodesReadInStatus := by
  intro p o
  have hword := regValue_status_fail_resetOf p o
  exact ⟨hword _, hword _, hword _, hword _, hword _, hword _, hword _, hword _⟩

/-- Settles O38: a size is read saturated, and a stride is too small to be. -/
theorem sizeRegistersReadTheGeometry : Obligations.SizeRegistersReadTheGeometry := by
  intro s v free
  simp only [readReg_outSize, readReg_rowStride]
  refine ⟨fun f hf => ⟨?_, ?_, stride_le f s.width⟩, fun hid => ?_,
    writeReg_readOnly v (by decide) (by decide) rfl, writeReg_readOnly v (by decide) (by decide) rfl, fun p o => ?_⟩
  · exact outSize_toNat hf
  · exact rowStride_toNat hf
  · simp [State.outSize, State.rowStride, ofId_eq_none _ hid]
  · apply BitVec.eq_of_toNat_eq
    rw [outSize_toNat (f := .r32f) rfl]
    simp [State.resetOf, DataFormat.imageSize, headerLength]

/-- Settles O39: the fields of STATUS add up to its word, and each is read off it. -/
theorem statusLayoutAndWriteOneToClear : Obligations.StatusLayoutAndWriteOneToClear := by
  rintro s v r rfl
  have hbusy := s.status.busy.toNat_lt
  have hdone := s.status.done.toNat_lt
  have herr := s.status.err.toNat_lt
  have hovr := s.status.ovr.toNat_lt
  have herrcode := s.status.errcode.isLt
  have hqlen := s.status.qlen.isLt
  constructor
  · rw [State.regValue, Status.word_eq]
    have hlt : s.status.busy.toNat + s.status.done.toNat * 2 ^ 1 + s.status.err.toNat * 2 ^ 2 +
      s.status.ovr.toNat * 2 ^ 3 + s.status.errcode.toNat * 2 ^ 8 + s.status.qlen.toNat * 2 ^ 16 < 2 ^ 64 := by omega
    refine ⟨getLsbD_ofNat_of_div (by decide) ?_, getLsbD_ofNat_of_div (by decide) ?_,
      getLsbD_ofNat_of_div (by decide) ?_, getLsbD_ofNat_of_div (by decide) ?_, extractLsb'_ofNat_eq_zero hlt ?_,
      extractLsb'_ofNat_of_div hlt ?_, extractLsb'_ofNat_eq_zero hlt ?_, extractLsb'_ofNat_of_div hlt ?_,
      extractLsb'_ofNat_eq_zero hlt ?_⟩ <;> omega
  · have hclear (b c : Bool) : (b && !c) = if c then false else b := by cases c <;> simp
    simp only [State.writeReg, State.clearStatus, Status.clearWrittenOnes, hclear]

/-- Settles O40: a write takes effect, and a word's fields read back as they were written. -/
theorem configurationReadsBack : Obligations.ConfigurationReadsBack := by
  intro s v hb
  simp only [writeReg_idle v hb, ne_eq, reduceCtorEq, not_false_eq_true]
  refine ⟨⟨rfl, rfl, rfl, rfl, rfl, rfl, rfl, rfl, rfl, rfl, rfl, rfl⟩, ⟨Cfg.word_ofWord v, rfl⟩,
    ⟨field_setWidth v, rfl⟩, ⟨field_setWidth v, rfl⟩, ⟨field_setWidth v, rfl⟩, fun k => ⟨?_, fun l hl => ?_, rfl⟩⟩
  · exact lane_setLane_self s.sin k v
  · exact lane_setLane_of_ne s.sin v hl

/-- Settles O41: none of these registers is CMD or STATUS, the two that a write reaches while BUSY = 1. -/
theorem busyIgnoresConfigurationWrites : Obligations.BusyIgnoresConfigurationWrites := by
  intro s v hb
  simp [writeReg_busy v hb]

/-- Settles O42: the fields of CFG add up to its word; the rest is the map of the window. -/
theorem registerMapAndReadOnlyRegisters : Obligations.RegisterMapAndReadOnlyRegisters := by
  intro s v free
  have hfixed : ∀ r : Reg, r = .version ∨ r = .reserved ∨ r = .cmd → s.readReg free r = s.regValue r := by
    rintro r (rfl | rfl | rfl) <;> exact ite_self _
  refine ⟨by simp [writeReg_of_ne, State.configure],
    hfixed _ (by simp), hfixed _ (by simp), hfixed _ (by simp), fun hb r => readReg_idle free r hb,
    ⟨Cfg.word_eq s.cfg, rfl, rfl, rfl, rfl, rfl, rfl, rfl, rfl, rfl, rfl, rfl, rfl, rfl, fun hc => if_pos hc⟩,
    fun off hlow _ => ?_, rfl, rfl, rfl, rfl, rfl, rfl, rfl, rfl, rfl, rfl, rfl, rfl, fun k => ?_⟩
  · unfold Reg.ofOffset
    split <;> simp at hlow ⊢
  · fin_cases k <;> exact ⟨rfl, rfl⟩

/-- Settles O43: the count saturates; a write clears it where it exists, and only there is it state. -/
theorem clampCounterSaturatesAndClears : Obligations.ClampCounterSaturatesAndClears := by
  intro s v free n
  refine ⟨fun hc => ⟨?_, fun hb => ⟨?_, ?_⟩⟩, fun hc => ⟨?_, ?_, ?_⟩⟩
  · rw [State.countClamps_clampCount, if_pos hc, saturatingCount_toNat]
  · rw [writeReg_idle v hb (by decide) (by decide), State.configure, if_pos hc]
  · rw [readReg_idle free _ hb, State.regValue, State.clampRead, if_pos hc]
  · simp [State.countClamps, hc]
  · exact writeReg_readOnly v (by decide) (by decide) (by simp [State.configure, hc])
  · simp [State.readReg, State.regValue, State.clampRead, hc]

end

section
/-! PROOF. Command words on the bus: ByteDecodingInvertsEncoding. -/

namespace Sys2Proof

/-- The opcode map takes a command's opcode to it, and no other (R65). -/
theorem instrOfOpcode_eq_some {op : BitVec 8} {i : Instr} : instrOfOpcode op = some i ↔ op = opcodeOf i := by
  constructor
  · intro h
    unfold instrOfOpcode at h
    apply BitVec.eq_of_toNat_eq
    split at h <;> cases h <;> assumption
  · rintro rfl
    cases i <;> rfl

/-- A word whose RSV is 0 is its OP, widened (R64). -/
theorem setWidth_opField {w : Word} (h : rsvField w = 0) : (opField w).setWidth 64 = w := by
  have hrsv := congrArg BitVec.toNat h
  rw [rsvField, Machine.field_toNat, show (0 : BitVec 56).toNat = 0 from rfl] at hrsv
  apply BitVec.eq_of_toNat_eq
  rw [BitVec.toNat_setWidth, opField, Machine.field_toNat]
  omega

/-- The word of a command has OP in bits 7:0 and RSV = 0, and decodes to it (R64, R65). -/
theorem encode_statement (i : Instr) : Laws.Encoding.Statement i := by
  cases i with
  | nop => exact Laws.Encoding.nop
  | convert => exact Laws.Encoding.convert
  | encodeHeader => exact Laws.Encoding.encodeHeader
  | packRow => exact Laws.Encoding.packRow
  | transform => exact Laws.Encoding.transform
  | encodePixel => exact Laws.Encoding.encodePixel

/-- A word decodes to a command exactly when it is that command's encoding (R63 to R66). -/
theorem decodeWord_eq_ok {w : Word} {i : Instr} : decodeWord w = .ok i ↔ w = encode i := by
  constructor
  · intro h
    unfold decodeWord at h
    split at h
    · cases h
    · rename_i hrsv
      split at h <;> cases h
      rename_i hop
      rw [encode, ← instrOfOpcode_eq_some.1 hop, setWidth_opField (not_not.1 hrsv)]
  · rintro rfl
    obtain ⟨_, _, _, hdecode⟩ := encode_statement i
    exact hdecode

/-- Decoding on bytes decodes the word of the first eight and hands back the rest. -/
theorem decodeBytes_eq_ok {bs rest : List Byte} {i : Instr} : decodeBytes bs = .ok (i, rest) ↔
    8 ≤ bs.length ∧ BitVec.ofNat 64 (Machine.ofBytesLE (bs.take 8)) = encode i ∧ bs.drop 8 = rest := by
  rw [← decodeWord_eq_ok]
  unfold decodeBytes
  split
  · rename_i hshort
    simp only [reduceCtorEq, false_iff]
    omega
  · rename_i hlong
    cases decodeWord (BitVec.ofNat 64 (Machine.ofBytesLE (bs.take 8))) <;> simp [Nat.le_of_not_lt hlong]

/-- Eight bytes are the command's when their word is (R51). -/
theorem eq_encodeBytes_iff {bs : List Byte} {i : Instr} (h : bs.length = 8) :
    bs = encodeBytes i ↔ BitVec.ofNat 64 (Machine.ofBytesLE bs) = encode i := by
  have hlt := Machine.ofBytesLE_lt bs
  rw [h, show 256 ^ 8 = 2 ^ 64 from rfl] at hlt
  constructor
  · rintro rfl
    rw [encodeBytes, Machine.ofBytesLE_bytesLE, Nat.mod_eq_of_lt (b := 256 ^ 8) (encode i).isLt, BitVec.ofNat_toNat,
      BitVec.setWidth_eq]
  · intro hw
    rw [encodeBytes, ← hw, BitVec.toNat_ofNat, Nat.mod_eq_of_lt hlt, ← h, Machine.bytesLE_ofBytesLE]

@[simp] theorem encodeBytes_length (i : Instr) : (encodeBytes i).length = 8 := Machine.bytesLE_length 8 _

end Sys2Proof

open Sys2Proof Sys2Proof.Machine

/-- Settles O3: eight bytes and their word determine each other, and a word decodes to a command exactly when it is its
encoding. -/
theorem byteDecodingInvertsEncoding : Obligations.ByteDecodingInvertsEncoding := by
  intro i bs rest
  rw [decodeBytes_eq_ok]
  constructor
  · rintro ⟨hlen, hword, rfl⟩
    rw [← (eq_encodeBytes_iff (List.length_take_of_le hlen)).2 hword, List.take_append_drop]
  · rintro rfl
    rw [← encodeBytes_length i, List.take_left, List.drop_left]
    exact ⟨by simp, (eq_encodeBytes_iff (encodeBytes_length i)).1 rfl, rfl⟩

end

section
/-! SUPPORT. Values that a format has exactly are rounded to themselves, and the exact widening of a binary32 pattern
(R12, R47). -/

namespace Sys2Proof.Machine

/-- A pattern's own value is rounded to that pattern. -/
theorem roundMag_of_unitsOf {frac d m : Nat} (hf : 0 < frac) (hd : 0 < d) :
    roundMag frac (d * unitsOf frac m) d = m := by
  obtain ⟨hnear, _⟩ := roundMag_nearest frac (d * unitsOf frac m) d m hf hd
  rw [Nat.cast_mul, Int.sub_self, Int.natAbs_zero, Nat.le_zero, Int.natAbs_eq_zero, Int.sub_eq_zero,
    ← Nat.cast_mul, ← Nat.cast_mul, Nat.cast_inj] at hnear
  exact (unitsOf_strictMono frac).injective (Nat.eq_of_mul_eq_mul_left hd hnear).symm

/-- A number of units that fits a significand, times a power of two, is rounded to itself. -/
theorem unitsOf_roundMag_exact {frac k e : Nat} (hk : k < 2 * 2 ^ frac) :
    unitsOf frac (roundMag frac (k * 2 ^ e) 1) = k * 2 ^ e := by
  have hbinade : roundBinade frac (k * 2 ^ e) 1 ≤ e := by
    rcases Nat.eq_zero_or_pos k with rfl | hpos
    · simp [roundBinade]
    · have hlog : Nat.log2 (k * 2 ^ e) < frac + 1 + e := by
        rw [Nat.log2_lt (Nat.mul_pos hpos (Nat.two_pow_pos e)).ne', Nat.pow_add, Nat.pow_succ']
        exact Nat.mul_lt_mul_of_pos_right hk (Nat.two_pow_pos e)
      rw [roundBinade, Nat.div_one]
      omega
  have hdvd : 2 ^ roundBinade frac (k * 2 ^ e) 1 ∣ k * 2 ^ e := (Nat.pow_dvd_pow 2 hbinade).mul_left k
  rw [unitsOf_roundMag, Nat.one_mul]
  simp [roundHalfEven, Nat.mod_eq_zero_of_dvd hdvd, Nat.div_mul_cancel hdvd]

/-- A pattern's value is a significand times a power of two. -/
theorem exists_significand (frac m : Nat) : ∃ k e, k < 2 * 2 ^ frac ∧ unitsOf frac m = k * 2 ^ e := by
  have hpos := Nat.two_pow_pos frac
  unfold unitsOf
  split
  · rename_i h0
    have hlt := (Nat.div_eq_zero_iff_lt hpos).1 h0
    exact ⟨m, 0, by omega, by simp⟩
  · have hlt := Nat.mod_lt m hpos
    exact ⟨_, _, by omega, rfl⟩

/-- The largest finite binary64 magnitude that is a binary32 value. -/
theorem unitsOf_fltMax :
    unitsOf 52 0x47EFFFFFE0000000 = unitsOf 23 0x7F7FFFFF * 2 ^ (unitExp - unitExp32) := by decide +kernel

/-- The magnitude of a widened finite binary32 pattern: binary32's largest at most, and the pattern's own value. -/
theorem widened_mag {m : Nat} (hm : m < 0x7F800000) :
    roundMag 52 (unitsOf 23 m * 2 ^ (unitExp - unitExp32)) 1 ≤ 0x47EFFFFFE0000000 ∧
      unitsOf 52 (roundMag 52 (unitsOf 23 m * 2 ^ (unitExp - unitExp32)) 1) =
        unitsOf 23 m * 2 ^ (unitExp - unitExp32) := by
  constructor
  · refine roundMag_le (by decide) Nat.one_pos ?_
    rw [Nat.one_mul, unitsOf_fltMax]
    exact Nat.mul_le_mul_right _ ((unitsOf_strictMono 23).monotone (by omega))
  · obtain ⟨k, e, hk, hunits⟩ := exists_significand 23 m
    rw [hunits, Nat.mul_assoc, ← Nat.pow_add]
    exact unitsOf_roundMag_exact (by omega)

section

variable {b : BitVec 32}

theorem widen32_of_finite (h : b.toNat % 2 ^ 31 < 0x7F800000) :
    widen32 b = F64.round (b.getLsbD 31) (unitsOf 23 (b.toNat % 2 ^ 31) * 2 ^ (unitExp - unitExp32)) 1 := by
  simp only [widen32]
  rw [if_neg (by omega), if_neg (by omega)]

theorem widen32_of_inf (h : b.toNat % 2 ^ 31 = 0x7F800000) :
    widen32 b = F64.ofSignMag (b.getLsbD 31) F64.infMag := by
  simp only [widen32]
  rw [if_pos h]

theorem widen32_of_nan (h : 0x7F800000 < b.toNat % 2 ^ 31) : widen32 b = F64.canonNaN := by
  simp only [widen32]
  rw [if_neg (by omega), if_pos h]

/-- A widened finite pattern keeps its sign and its value, and lies within binary32's range (R47). -/
theorem widen32_exact (h : b.toNat % 2 ^ 31 < 0x7F800000) :
    F64.mag (widen32 b) ≤ 0x47EFFFFFE0000000 ∧ F64.sign (widen32 b) = b.getLsbD 31 ∧
      F64.units (widen32 b) = unitsOf 23 (b.toNat % 2 ^ 31) * 2 ^ (unitExp - unitExp32) := by
  obtain ⟨hle, hunits⟩ := widened_mag h
  have hmag : F64.mag (widen32 b) = roundMag 52 (unitsOf 23 (b.toNat % 2 ^ 31) * 2 ^ (unitExp - unitExp32)) 1 := by
    rw [widen32_of_finite h, F64.mag_round, Nat.min_eq_left (Nat.le_trans hle (by decide))]
  refine ⟨by rwa [hmag], ?_, ?_⟩
  · rw [widen32_of_finite h, F64.sign_round]
  · rw [F64.units, hmag, hunits]

end

end Sys2Proof.Machine
end

section
/-! PROOF. What a binary64 pattern stands for and how a binary32 lane is widened and narrowed:
FloatPatternsAndExactWidening, Binary32LaneSurvivesFloat32Quantizer. -/

namespace Sys2Proof.Machine

namespace F64

/-- A magnitude is its exponent field above its fraction field (R72). -/
theorem mag_eq_fields (v : Word) : mag v = (v.extractLsb' 52 11).toNat * 2 ^ 52 + (v.extractLsb' 0 52).toNat := by
  simp only [mag, BitVec.extractLsb'_toNat, Nat.shiftRight_eq_div_pow]
  omega

/-- A pattern's class and value are those of its exponent `e` and its fraction `f` (R72). -/
theorem class_of_fields {v : Word} {e f : Nat} (hf : f < 2 ^ 52) (he : e < 2 ^ 11) (hmag : mag v = e * 2 ^ 52 + f) :
    isNaN v = decide (e = 0x7FF ∧ f ≠ 0) ∧ isInf v = decide (e = 0x7FF ∧ f = 0) ∧
      isFinite v = decide (e ≠ 0x7FF) ∧ isZero v = decide (e = 0 ∧ f = 0) ∧
      units v = if e = 0 then f else (2 ^ 52 + f) * 2 ^ (e - 1) := by
  simp only [isNaN, isInf, isFinite, isZero, decide_eq_decide, infMag, hmag]
  refine ⟨by omega, by omega, by omega, by omega, ?_⟩
  rw [units, unitsOf, hmag, show (e * 2 ^ 52 + f) / 2 ^ 52 = e by omega, show (e * 2 ^ 52 + f) % 2 ^ 52 = f by omega]
  split
  · rename_i h0
    simp [h0]
  · rfl

end F64

/-- A value whose magnitude is at most the limit's is not clamped. -/
theorem clampFloat_of_mag_le {limit v : Word} (hlimit : F64.sign limit = false) (hfinite : F64.isFinite limit = true)
    (h : F64.mag v ≤ F64.mag limit) : clampFloat limit v = (v, 0) := by
  have hnan : F64.isNaN v = false := by
    simp only [F64.isFinite, F64.isNaN, decide_eq_true_eq, decide_eq_false_iff_not] at *
    omega
  have hkey : -(F64.mag v : Int) ≤ F64.key v ∧ F64.key v ≤ F64.mag v := by
    unfold F64.key
    split <;> omega
  have hhigh : F64.key limit = F64.mag limit := by simp [F64.key, hlimit]
  have hlow : F64.key (F64.neg limit) = -(F64.mag limit : Int) := by simp [F64.key, hlimit]
  have habove : F64.lt limit v = false := by
    have hle : F64.key v ≤ F64.key limit := by omega
    simp [F64.lt, hle]
  have hbelow : F64.lt v (F64.neg limit) = false := by
    have hle : F64.key (F64.neg limit) ≤ F64.key v := by omega
    simp [F64.lt, hle]
  simp [clampFloat, hnan, habove, hbelow]

/-- A pattern is its sign bit above its magnitude. -/
theorem ofNat_signMag (b : BitVec 32) :
    BitVec.ofNat 32 ((if b.getLsbD 31 then 2 ^ 31 else 0) + b.toNat % 2 ^ 31) = b := by
  have hsign : (b.getLsbD 31).toNat = b.toNat / 2 ^ 31 % 2 := Nat.toNat_testBit b.toNat 31
  apply BitVec.eq_of_toNat_eq
  rw [BitVec.toNat_ofNat]
  cases h : b.getLsbD 31 <;> rw [h] at hsign
  · rw [Bool.toNat_false] at hsign
    simp only [Bool.false_eq_true, if_false]
    omega
  · rw [Bool.toNat_true] at hsign
    simp only [if_true]
    omega

/-- Narrowing a widened finite pattern gives it back. -/
theorem rnd32_widen32 {b : BitVec 32} (h : b.toNat % 2 ^ 31 < 0x7F800000) : rnd32 (widen32 b) = b := by
  obtain ⟨_, hsign, hunits⟩ := widen32_exact h
  rw [rnd32, hsign, hunits, Nat.mul_comm, roundMag_of_unitsOf (by decide) (Nat.two_pow_pos _), ofNat_signMag]

end Sys2Proof.Machine

open Sys2Proof Sys2Proof.Machine

/-- Settles O27: a magnitude is its two fields, and every binary32 value fits a binary64 significand. -/
theorem floatPatternsAndExactWidening : Obligations.FloatPatternsAndExactWidening := by
  refine ⟨?_, fun b => ⟨fun h => ?_, fun h => ?_, fun h => ?_⟩⟩
  · rintro v e f rfl rfl
    obtain ⟨hnan, hinf, hfinite, hzero, hunits⟩ := F64.class_of_fields (v.extractLsb' 0 52).isLt
      (v.extractLsb' 52 11).isLt (F64.mag_eq_fields v)
    exact ⟨rfl, hnan, hinf, hfinite, hzero, hunits, rfl⟩
  · obtain ⟨hle, hsign, hunits⟩ := widen32_exact h
    unfold unitExp unitExp32 at hunits
    exact ⟨decide_eq_true (Nat.lt_of_le_of_lt hle (by decide)), hsign, hunits⟩
  · simp [widen32_of_inf h]
  · rw [widen32_of_nan h, F64.isNaN_canonNaN]

/-- Settles O28: a widened lane is within binary32's range, so it is not clamped, and it is narrowed to itself. -/
theorem binary32LaneSurvivesFloat32Quantizer : Obligations.Binary32LaneSurvivesFloat32Quantizer := by
  intro b h
  obtain ⟨hle, _, _⟩ := widen32_exact h
  have hkept : clampFloat fltMax (widen32 b) = (widen32 b, 0) :=
    clampFloat_of_mag_le (by decide) (by decide) (Nat.le_trans hle (by decide))
  simp only [qF32, hkept, rnd32_widen32 h]

end

section
/-! SUPPORT. What the rows of an image hold: the bytes and clamp events of a row's pixels, and OUT after rows are
written (R103, R127 to R129, R141). -/

namespace Sys2Proof.Machine

/-! ### The clamp events of pixels -/

@[simp] theorem eventsOf_zero (s : State) (j : Job) (i : Nat) : s.eventsOf j i 0 = 0 := rfl

theorem eventsOf_add (s : State) (j : Job) (i m n : Nat) :
    s.eventsOf j i (m + n) = s.eventsOf j i m + s.eventsOf j (i + m) n := by
  simp [State.eventsOf, List.range_add, Function.comp_def, Nat.add_assoc]

theorem eventsOf_one {s : State} {j : Job} {i : Nat} {smp : Sample} (h : s.readSample i = some smp) :
    s.eventsOf j i 1 = (pe j.fmt (ct s.inst j.pair smp)).events := by
  simp [State.eventsOf, State.pixelEvents, h]

theorem encodePixels_events {s : State} {j : Job} {n i : Nat} {q : Encoded} (h : s.encodePixels j n i = .ok q) :
    q.events = s.eventsOf j i n := by
  induction n generalizing i q with
  | zero => cases h; rfl
  | succ n ih =>
    obtain ⟨smp, rest, hsmp, hrest, rfl⟩ := encodePixels_succ.1 h
    rw [Encoded.append_events, ih hrest, ← eventsOf_one hsmp, Nat.add_comm n, eventsOf_add]

theorem rowB_events {s : State} {j : Job} {y : Nat} {q : Encoded} (h : s.rowB j y = .ok q) :
    q.events = s.eventsOf j (y * s.widthNat) s.widthNat := by
  obtain ⟨p, hp, rfl⟩ := rowB_eq_ok.1 h
  simpa using encodePixels_events hp

theorem convertRows_events {s : State} {j : Job} {n y ev : Nat} {m : Memory} {r : Memory × Nat}
    (h : s.convertRows j n y m ev = .ok r) : r.2 = ev + s.eventsOf j (y * s.widthNat) (n * s.widthNat) := by
  induction n generalizing y m ev with
  | zero => cases h; simp
  | succ n ih =>
    obtain ⟨q, hq, hrest⟩ := convertRows_succ.1 h
    rw [ih hrest, rowB_events hq, Nat.add_one_mul n, Nat.add_comm (n * s.widthNat), eventsOf_add, Nat.add_one_mul y,
      Nat.add_assoc]

/-! ### The bytes of a row -/

/-- Pixel `x` of a run of pixels stands at `x × BPP` (R128). -/
theorem encodePixels_getElem? {s : State} {j : Job} {n i x k : Nat} {q : Encoded} {smp : Sample}
    (h : s.encodePixels j n i = .ok q) (hx : x < n) (hsmp : s.readSample (i + x) = some smp) (hk : k < j.fmt.bpp) :
    q.bytes[x * j.fmt.bpp + k]? = (pe j.fmt (ct s.inst j.pair smp)).bytes[k]? := by
  induction n generalizing i q x with
  | zero => omega
  | succ n ih =>
    obtain ⟨first, rest, hfirst, hrest, rfl⟩ := encodePixels_succ.1 h
    rw [Encoded.append_bytes]
    cases x with
    | zero =>
      obtain rfl : first = smp := Option.some.inj (hfirst.symm.trans hsmp)
      rw [Nat.zero_mul, Nat.zero_add, List.getElem?_append_left (by rwa [pe_length])]
    | succ x =>
      rw [List.getElem?_append_right (by rw [pe_length, Nat.add_one_mul]; omega), pe_length,
        show (x + 1) * j.fmt.bpp + k - j.fmt.bpp = x * j.fmt.bpp + k by rw [Nat.add_one_mul]; omega]
      exact ih hrest (by omega) (by rwa [Nat.add_assoc, Nat.add_comm 1])

/-- A pixel lies within its row's pixels (R124). -/
theorem pixel_lt_rowBytes {f : DataFormat} {w x k : Nat} (hx : x < w) (hk : k < f.bpp) :
    x * f.bpp + k < f.rowBytes w := by
  rw [DataFormat.rowBytes, Nat.mul_comm x]
  exact Nat.mul_add_lt_mul_of_lt_of_lt hx hk

/-- Pixel `x` of a row stands at `x × BPP` (R128). -/
theorem rowB_pixel {s : State} {j : Job} {y x k : Nat} {q : Encoded} {smp : Sample} (h : s.rowB j y = .ok q)
    (hx : x < s.widthNat) (hsmp : s.readSample (y * s.widthNat + x) = some smp) (hk : k < j.fmt.bpp) :
    q.bytes[x * j.fmt.bpp + k]? = (pe j.fmt (ct s.inst j.pair smp)).bytes[k]? := by
  obtain ⟨p, hp, rfl⟩ := rowB_eq_ok.1 h
  have hlt : x * j.fmt.bpp + k < p.bytes.length := by
    rw [encodePixels_length hp]
    exact pixel_lt_rowBytes hx hk
  rw [Encoded.append_bytes, List.getElem?_append_left hlt, encodePixels_getElem? hp hx hsmp hk]

/-- A row ends with its padding, which is zero (R127). -/
theorem rowB_padding {s : State} {j : Job} {y k : Nat} {q : Encoded} (h : s.rowB j y = .ok q)
    (hk : k < j.fmt.pad s.widthNat) : q.bytes[j.fmt.rowBytes s.widthNat + k]? = some 0x00 := by
  obtain ⟨p, hp, rfl⟩ := rowB_eq_ok.1 h
  have hlen : p.bytes.length = j.fmt.rowBytes s.widthNat := encodePixels_length hp
  rw [Encoded.append_bytes, List.getElem?_append_right (by omega), hlen, Nat.add_sub_cancel_left,
    List.getElem?_replicate_of_lt hk]

/-! ### OUT after rows are written -/

theorem rowAddr_add (s : State) (j : Job) (y n : Nat) :
    s.rowAddr j (y + n) = s.rowAddr j y + n * j.fmt.stride s.widthNat := by
  rw [State.rowAddr, State.rowAddr, Nat.add_mul, Nat.add_assoc]

/-- A row written at its place is read there. -/
theorem read_writeRow {s : State} {j : Job} {y o : Nat} {m : Memory} {q : Encoded} (h : s.rowB j y = .ok q)
    (ho : o < j.fmt.stride s.widthNat) :
    (m.writeBytes (s.rowAddr j y) q.bytes).read (s.rowAddr j y + o) = q.bytes[o]? := by
  rw [Memory.read_writeBytes, rowB_length h, if_pos (by omega), Nat.add_sub_cancel_left]

/-- OUT outside a written row reads as before. -/
theorem read_writeRow_outside {s : State} {j : Job} {y a : Nat} {m : Memory} {q : Encoded} (h : s.rowB j y = .ok q)
    (ha : a < s.rowAddr j y ∨ s.rowAddr j y + j.fmt.stride s.widthNat ≤ a) :
    (m.writeBytes (s.rowAddr j y) q.bytes).read a = m.read a :=
  Memory.read_writeBytes_outside _ _ _ _ (by rwa [rowB_length h])

/-- OUT outside `n` written rows reads as before. -/
theorem convertRows_read_outside {s : State} {j : Job} {n y ev a : Nat} {m : Memory} {r : Memory × Nat}
    (h : s.convertRows j n y m ev = .ok r) (ha : a < s.rowAddr j y ∨ s.rowAddr j (y + n) ≤ a) :
    r.1.read a = m.read a := by
  induction n generalizing y m ev with
  | zero => cases h; rfl
  | succ n ih =>
    obtain ⟨q, hq, hrest⟩ := convertRows_succ.1 h
    have hnext := rowAddr_add s j y 1
    have hend := rowAddr_add s j (y + 1) n
    rw [Nat.add_assoc, Nat.add_comm 1] at hend
    rw [ih hrest (by rw [Nat.add_assoc, Nat.add_comm 1]; omega), read_writeRow_outside hq (by omega)]

/-- Each of `n` rows, once written, is read at its place: those written after it lie above it. -/
theorem convertRows_read_row {s : State} {j : Job} {n y i ev o : Nat} {m : Memory} {r : Memory × Nat} {q : Encoded}
    (h : s.convertRows j n y m ev = .ok r) (hi : i < n) (hq : s.rowB j (y + i) = .ok q)
    (ho : o < j.fmt.stride s.widthNat) : r.1.read (s.rowAddr j (y + i) + o) = q.bytes[o]? := by
  induction n generalizing y m ev i with
  | zero => omega
  | succ n ih =>
    obtain ⟨first, hfirst, hrest⟩ := convertRows_succ.1 h
    cases i with
    | zero =>
      obtain rfl : first = q := Except.ok.inj (hfirst.symm.trans hq)
      have hnext := rowAddr_add s j y 1
      rw [Nat.add_zero, convertRows_read_outside hrest (by omega), read_writeRow hfirst ho]
    | succ i =>
      rw [Nat.add_comm i, ← Nat.add_assoc] at hq ⊢
      exact ih hrest (by omega) hq

/-- The rows of an image start after its header (R56). -/
theorem rowAddr_zero (s : State) (j : Job) : s.rowAddr j 0 = headerLength s.cfg.hdrEn := by simp [State.rowAddr]

/-- Past the last row, the image ends (R142). -/
theorem rowAddr_heightNat (s : State) (j : Job) :
    s.rowAddr j s.heightNat = j.fmt.imageSize s.cfg.hdrEn s.widthNat s.heightNat := rfl

/-! ### The completions -/

theorem exec_packRow {s : State} {j : Job} {q : Encoded} (hjob : s.job = .ok j) (hrow : s.rowNat < s.heightNat)
    (hq : s.rowB j s.rowNat = .ok q) : exec .packRow s =
      .next ((s.writeOut (s.rowAddr j s.rowNat) q.bytes).countClamps q.events).finish := by
  have hrule := packRowRule_eq_ok.2 ⟨j, q, hjob, hrow, hq, rfl⟩
  simp only [exec, execPackRow, hrule, complete_ok]

theorem exec_convert {s : State} {j : Job} {r : Memory × Nat} (hjob : s.job = .ok j)
    (hrows : s.convertRows j s.heightNat 0 (s.headerIfEnabled j).outMem 0 = .ok r) :
    exec .convert s = .next ({ s with outMem := r.1 }.countClamps r.2).finish := by
  have hrule := convertRule_eq_ok.2 ⟨j, r, hjob, hrows, rfl⟩
  simp only [exec, execConvert, hrule, complete_ok]

/-- The header, where it is enabled, stands at OUT[0..15] (R135, R141). -/
theorem headerIfEnabled_read {s : State} {j : Job} {k : Nat} (hen : s.cfg.hdrEn = true) (hk : k < 16) :
    (s.headerIfEnabled j).outMem.read k = (headerBytes s.widthNat s.heightNat j.fmt j.pair.target)[k]? := by
  rw [State.headerIfEnabled, if_pos hen, State.writeHeader, State.writeOut_outMem, Memory.read_writeBytes,
    headerBytes_length, if_pos (by omega), Nat.sub_zero]

/-- OUT past the header, or with none from 0 up, is as it was. -/
theorem headerIfEnabled_read_outside {s : State} {j : Job} {a : Nat} (ha : headerLength s.cfg.hdrEn ≤ a) :
    (s.headerIfEnabled j).outMem.read a = s.outMem.read a := by
  unfold State.headerIfEnabled
  split
  · rename_i hen
    rw [headerLength, if_pos hen] at ha
    exact Memory.read_writeBytes_outside _ _ _ _ (.inr (by rw [headerBytes_length]; omega))
  · rfl

/-- An image's samples are written where each of its rows' are. -/
theorem State.samplesWritten.row {s : State} {w h y : Nat} (hs : s.samplesWritten 0 (w * h)) (hy : y < h) :
    s.samplesWritten (y * w) w := by
  intro k hk
  have hsample := hs (y * w + k) (by
    rw [Nat.mul_comm y, Nat.mul_comm w h]
    exact Nat.mul_add_lt_mul_of_lt_of_lt hy hk)
  rwa [Nat.zero_add] at hsample

end Sys2Proof.Machine
end

section
/-! PROOF. What the packer and the sequencer write: PackRowWritesItsRow, ConvertWritesTheImage. -/

open Sys2Proof Sys2Proof.Machine

/-- Settles O20: the row written is the row encoded, and it is read where it was written. -/
theorem packRowWritesItsRow : Obligations.PackRowWritesItsRow := by
  intro s j hconv hrow hwritten
  obtain ⟨q, hq⟩ := (rowB_ok_iff (j := j)).2 hwritten
  refine ⟨_, exec_packRow hconv.job_ok hrow hq, fun x smp k hx hsmp hk => ?_, fun k hk => ?_, fun a ha => ?_,
    fun hc => ?_, fun hc => ?_, rfl⟩
  · have hlt := pixel_lt_rowBytes hx hk
    rw [Nat.add_assoc]
    exact (read_writeRow hq (Nat.lt_add_right _ hlt)).trans (rowB_pixel hq hx hsmp hk)
  · rw [Nat.add_assoc]
    exact (read_writeRow hq (Nat.add_lt_add_left hk _)).trans (rowB_padding hq hk)
  · exact read_writeRow_outside hq ha
  · simp [hc, saturatingCount_toNat, rowB_events hq, State.rowNat, State.widthNat]
  · simp [hc]

/-- Settles O21: the rows lie one above the other, after the header; so each is read as it was encoded. -/
theorem convertWritesTheImage : Obligations.ConvertWritesTheImage := by
  intro s j hconv hwritten
  have hjob := hconv.job_ok
  have hrowOk : ∀ y, y < s.heightNat → ∃ q, s.rowB j y = .ok q := fun y hy => rowB_ok_iff.2 (hwritten.row hy)
  obtain ⟨r, hr⟩ := (convertRows_ok_iff (s := s) (j := j) (n := s.heightNat) (y := 0) (ev := 0)
    (m := (s.headerIfEnabled j).outMem)).2 (by simpa using hrowOk)
  have hread : ∀ y q o, y < s.heightNat → s.rowB j y = .ok q → o < j.fmt.stride s.widthNat →
      r.1.read (s.rowAddr j y + o) = q.bytes[o]? := fun y q o hy hq ho => by
    simpa using convertRows_read_row hr hy (by simpa using hq) ho
  refine ⟨fun y => rfl, rfl, pair_target (pair_eq_ok.2 hconv.pair), _, exec_convert hjob hr, fun hen k hk => ?_,
    fun y x smp k hy hx hsmp hk => ?_, fun y k hy hk => ?_, fun a ha => ?_, fun hc => ?_, fun hc => ?_, rfl⟩
  · refine (convertRows_read_outside hr (.inl ?_)).trans (headerIfEnabled_read hen hk)
    rwa [rowAddr_zero, headerLength, if_pos hen]
  · obtain ⟨q, hq⟩ := hrowOk y hy
    have hlt := pixel_lt_rowBytes hx hk
    rw [Nat.add_assoc]
    exact (hread y q _ hy hq (Nat.lt_add_right _ hlt)).trans (rowB_pixel hq hx hsmp hk)
  · obtain ⟨q, hq⟩ := hrowOk y hy
    rw [Nat.add_assoc]
    exact (hread y q _ hy hq (Nat.add_lt_add_left hk _)).trans (rowB_padding hq hk)
  · refine (convertRows_read_outside hr (.inr ?_)).trans (headerIfEnabled_read_outside (Nat.le_trans ?_ ha))
    · rwa [Nat.zero_add, rowAddr_heightNat]
    · exact Nat.le_add_right _ _
  · simp [hc, saturatingCount_toNat, convertRows_events hr, State.widthNat, State.heightNat, Nat.mul_comm]
  · simp [hc]

end

section
/-! PROOF. The host's accesses and the steps that carry them out: LaneWriteMakesLaneWritten, ReadsHaveNoSideEffect,
IllFormedAccessIsRefused, StepRunsTheHostOperation, TwoCommandWritesHaveTwoOutcomes. -/

namespace Sys2Proof.Machine

/-! ### Lanes of IN -/

/-- Reading the same bytes gives the same. -/
theorem Memory.readBytes_congr {m m' : Memory} {a n : Nat} (h : ∀ x, a ≤ x → x < a + n → m.read x = m'.read x) :
    m.readBytes a n = m'.readBytes a n := by
  induction n generalizing a with
  | zero => rfl
  | succ n ih =>
    simp only [Memory.readBytes]
    rw [h a (Nat.le_refl a) (by omega), ih fun x hx hlt => h x (by omega) (by omega)]

/-- A lane is one of the access unit's places in IN, inside it where its sample is (R45, R46). -/
theorem accessLegal_lane {s : State} {i : Nat} (k : Fin 4) (hi : i < s.inst.inCapacity) :
    s.accessLegal .input (laneAddr s.inst.sampleFmt i k) (laneBytes s.inst.sampleFmt) = true := by
  refine accessLegal_iff.2 ⟨decide_eq_true rfl, Nat.mul_mod_left _ _, ?_⟩
  have hplace : i * 4 + k.val + 1 ≤ s.inst.inCapacity * 4 := by omega
  have hmul := Nat.mul_le_mul_right (laneBytes s.inst.sampleFmt) hplace
  rwa [Nat.add_one_mul] at hmul

/-- Two lanes do not overlap. -/
theorem laneAddr_disjoint {fmt : SampleFmt} {i i' : Nat} {k k' : Fin 4} (h : i' ≠ i ∨ k' ≠ k) :
    laneAddr fmt i' k' + laneBytes fmt ≤ laneAddr fmt i k ∨ laneAddr fmt i k + laneBytes fmt ≤ laneAddr fmt i' k' := by
  simp only [laneAddr, ← Nat.add_one_mul]
  have hplace : i' * 4 + k'.val + 1 ≤ i * 4 + k.val ∨ i * 4 + k.val + 1 ≤ i' * 4 + k'.val := by omega
  exact hplace.imp (Nat.mul_le_mul_right _) (Nat.mul_le_mul_right _)

/-- The state after the host's write of one lane. -/
def State.writeLane (s : State) (i : Nat) (k : Fin 4) (v : Word) : State :=
  { s with
    inMem := s.inMem.writeBytes (laneAddr s.inst.sampleFmt i k) (bytesLE (laneBytes s.inst.sampleFmt) v.toNat) }

theorem hostStep_write_lane {s : State} {i : Nat} (k : Fin 4) (v : Word) (hb : s.status.busy = false)
    (hi : i < s.inst.inCapacity) :
    hostStep (.write .input (laneAddr s.inst.sampleFmt i k) (laneBytes s.inst.sampleFmt) v) s =
      .next (s.writeLane i k v) := by
  simp [hostStep, accessLegal_lane k hi, State.hostWriteIn, hb, State.writeLane]

/-- The bytes of a lane just written are the value's low ones (R52). -/
theorem readBytes_writeLane (s : State) (i : Nat) (k : Fin 4) (v : Word) :
    (s.writeLane i k v).inMem.readBytes (laneAddr s.inst.sampleFmt i k) (laneBytes s.inst.sampleFmt) =
      some (bytesLE (laneBytes s.inst.sampleFmt) v.toNat) := by
  have hread := Memory.readBytes_writeBytes s.inMem (laneAddr s.inst.sampleFmt i k)
    (bytesLE (laneBytes s.inst.sampleFmt) v.toNat)
  rwa [bytesLE_length] at hread

/-- A lane just written reads as its pattern, widened (R47). -/
theorem readLane_writeLane (s : State) (i : Nat) (k : Fin 4) (v : Word) :
    (s.writeLane i k v).readLane i k =
      some (widen s.inst.sampleFmt (v.toNat % 256 ^ laneBytes s.inst.sampleFmt)) := by
  rw [← ofBytesLE_bytesLE]
  exact congrArg (Option.map _) (readBytes_writeLane s i k v)

/-- Every other lane reads as before. -/
theorem readLane_writeLane_of_ne {s : State} {i i' : Nat} {k k' : Fin 4} (v : Word) (h : i' ≠ i ∨ k' ≠ k) :
    (s.writeLane i k v).readLane i' k' = s.readLane i' k' := by
  refine congrArg (Option.map _) (Memory.readBytes_congr fun x hx hlt => ?_)
  have hdisjoint := laneAddr_disjoint (fmt := s.inst.sampleFmt) h
  have hlt' : x < laneAddr s.inst.sampleFmt i' k' + laneBytes s.inst.sampleFmt := hlt
  have hx' : laneAddr s.inst.sampleFmt i' k' ≤ x := hx
  exact Memory.read_writeBytes_outside _ _ _ _ (by rw [bytesLE_length]; omega)

theorem widen_binary64 (v : Word) : widen .binary64 (v.toNat % 256 ^ laneBytes .binary64) = v := by
  apply BitVec.eq_of_toNat_eq
  simp only [widen, laneBytes, BitVec.toNat_ofNat]
  omega

theorem widen_binary32 (v : Word) :
    widen .binary32 (v.toNat % 256 ^ laneBytes .binary32) = widen32 (v.extractLsb' 0 32) := by
  refine congrArg widen32 (BitVec.eq_of_toNat_eq ?_)
  simp [laneBytes]

/-- A sample is its four lanes, all of them written (R46). -/
theorem readSample_eq_some {s : State} {i : Nat} {x : Sample} :
    s.readSample i = some x ↔ ∀ k : Fin 4, s.readLane i k = some (x.lane k) := by
  constructor
  · intro h
    unfold State.readSample at h
    split at h
    · cases h
      intro k
      fin_cases k <;> assumption
    · cases h
  · intro h
    simp only [State.readSample, h]
    rfl

/-! ### Accesses -/

/-- An ill-formed access is refused, before anything else is looked at (R50). -/
theorem hostStep_refused {s : State} {sp : Space} {a n : Nat} (h : ¬s.accessLegal sp a n = true) (v : Word) :
    hostStep (.write sp a n v) s = .refused .illFormedAccess ∧ hostStep (.read sp a n) s = .refused .illFormedAccess :=
  ⟨if_neg h, if_neg h⟩

/-- The access widths of the three spaces (R46, R48, R49). -/
theorem widthLegal_iff {s : State} {sp : Space} {n : Nat} : s.widthLegal sp n = true ↔ (sp = .regs → n = 8) ∧
    (sp = .input → n = laneBytes s.inst.sampleFmt) ∧ (sp = .output → n = 1 ∨ n = 2 ∨ n = 4 ∨ n = 8) := by
  cases sp <;> simp [State.widthLegal, or_assoc]

/-- A legal read of written bytes of IN returns them, whether BUSY is 0 or 1 (R175). -/
theorem hostStep_read_in {s : State} {a n : Nat} {bs : List Byte} (hlegal : s.accessLegal .input a n = true)
    (hbs : s.inMem.readBytes a n = some bs) :
    hostStep (.read .input a n) s = .next (s.returnRead (BitVec.ofNat 64 (ofBytesLE bs))) := by
  simp [hostStep, hlegal, State.hostReadIn, hbs]

/-! ### Steps -/

/-- A step of a block with no mark, at the turn of an operation from outside, is that operation. -/
theorem step_of_mover_host {s : State} {op : HostOp} (hmark : s.faultMark = none) (hmover : s.mover = .host op) :
    step s = s.useTurn.takeOp.settle (hostStep op s.useTurn.takeOp) := by
  simp [step, hmark, unmarkedStep, hmover]

/-- The host moves while BUSY = 0, and at its turn while BUSY = 1: the operation and its turn are taken (R59). -/
theorem mover_host {s u : State} {op : HostOp} {ops : List HostOp} {turns : List Agent}
    (hops : s.outside.ops = op :: ops)
    (hturn : (s.status.busy = false ∧ s.outside.turns = turns) ∨
      (s.status.busy = true ∧ s.outside.turns = .host :: turns))
    (hu : u = { s with outside := { s.outside with ops := ops, turns := turns } }) :
    s.mover = .host op ∧ s.useTurn.takeOp = u := by
  subst hu
  rcases hturn with ⟨hb, hturns⟩ | ⟨hb, hturns⟩ <;>
    simp [State.mover, State.useTurn, State.takeOp, hb, hops, hturns]

/-- STATUS reads BUSY in bit 0 (R19), also while BUSY = 1. -/
theorem readReg_status_busy {s : State} (free : Word) (hb : s.status.busy = true) :
    (s.readReg free .status).getLsbD 0 = true := by
  simp [State.readReg, hb, Status.word, bitAt]

end Sys2Proof.Machine

open Sys2Proof Sys2Proof.Machine

/-- Settles O49: reading after writing, on the lane's bytes, and no two lanes overlap. -/
theorem laneWriteMakesLaneWritten : Obligations.LaneWriteMakesLaneWritten := by
  refine ⟨fun fmt i k => Nat.add_mul _ _ _, fun s i x => readSample_eq_some, fun s i k v hb hi => ?_⟩
  refine ⟨_, hostStep_write_lane k v hb hi, rfl, fun hfmt => ?_, fun hfmt => ?_,
    fun i' k' hne => readLane_writeLane_of_ne v hne, fun st => ⟨_, hostStep_read_in (accessLegal_lane k hi)
      (readBytes_writeLane s i k v), ?_⟩⟩
  · rw [readLane_writeLane, hfmt, widen_binary64]
  · rw [readLane_writeLane, hfmt, widen_binary32]
  · rw [ofBytesLE_bytesLE]
    rfl

/-- Settles O45: a read only hands a value to the host. -/
theorem readsHaveNoSideEffect : Obligations.ReadsHaveNoSideEffect := by
  intro s t sp a n h
  obtain ⟨v, rfl⟩ := hostRead_effect h
  exact ⟨rfl, rfl, rfl⟩

/-- Settles O47: an access is legal by its width, its alignment and its end, and `hostStep` looks at that first. -/
theorem illFormedAccessIsRefused : Obligations.IllFormedAccessIsRefused := by
  intro s sp a n v
  have hiff : s.accessLegal sp a n = true ↔ (sp = .regs → n = 8) ∧ (sp = .input → n = laneBytes s.inst.sampleFmt) ∧
      (sp = .output → n = 1 ∨ n = 2 ∨ n = 4 ∨ n = 8) ∧ a % n = 0 ∧ a + n ≤ s.spaceBytes sp := by
    rw [accessLegal_iff, widthLegal_iff, and_assoc, and_assoc]
  refine ⟨⟨rfl, rfl, rfl, rfl, rfl⟩, hiff, fun h => hostStep_refused (hiff.not.2 h) v, fun haligned hend => ?_,
    fun hlegal bs hbs => ⟨_, hostStep_read_in hlegal hbs, rfl⟩⟩
  have hlegal : s.accessLegal .regs a 8 = true := accessLegal_iff.2 ⟨rfl, haligned, hend⟩
  exact ⟨if_pos hlegal, _, if_pos hlegal, rfl⟩

/-- Settles O56: WAIT is a read of STATUS, and a step at the host's turn is the operation taken, settled. -/
theorem stepRunsTheHostOperation : Obligations.StepRunsTheHostOperation := by
  refine ⟨fun s => ?_, fun s hmark => ⟨fun op ops turns u hops hturn hu => ?_, fun hb hops => ?_⟩⟩
  · cases hb : s.status.busy with
    | true =>
      refine ⟨s.pollStatus.pushOp .wait, by simp [hostStep, hb], rfl, rfl, fun _ => ⟨rfl, _, ?_, rfl, rfl⟩, by simp⟩
      exact readReg_status_busy _ hb
    | false =>
      refine ⟨s.pollStatus, by simp [hostStep, hb], rfl, rfl, by simp, fun _ => ⟨rfl, ?_⟩⟩
      simp [State.pollStatus, readReg_idle _ _ hb]
  · obtain ⟨hmover, htaken⟩ := mover_host hops hturn hu
    rw [step_of_mover_host hmark hmover, htaken]
    exact ⟨fun t ht => by simp [ht], fun f hf => by simp [hf], fun r hr => by simp [hr]⟩
  · simp [step, hmark, unmarkedStep, State.mover, hb, hops]

/-- Settles O57: the two orders, run: issue, complete, issue, complete; and issue, overrun, complete (R59, R159). -/
theorem twoCommandWritesHaveTwoOutcomes : Obligations.TwoCommandWritesHaveTwoOutcomes := by
  intro p
  refine ⟨⟨_, rfl, rfl, ?_⟩, ⟨_, rfl, rfl, ?_⟩⟩
  · show Status.word ⟨false, true, false, false, 0, 0⟩ = 0x2
    decide
  · show Status.word ⟨false, true, false, true, 0, 0⟩ = 0xA
    decide

end

section
/-! PROOF. Command words: CommandWordsAreExactlyTheEncodings, OpcodeMapDecodes. -/

open Sys2Proof Sys2Proof.Machine

/-- Settles O2: RSV = 0 makes a word its opcode, and the opcode map is one to one on the opcodes it has. -/
theorem commandWordsAreExactlyTheEncodings : Obligations.CommandWordsAreExactlyTheEncodings :=
  fun _ _ => decodeWord_eq_ok

/-- Settles O1: each of the six words is its command's encoding. -/
theorem opcodeMapDecodes : Obligations.OpcodeMapDecodes :=
  ⟨decodeWord_eq_ok.2 rfl, decodeWord_eq_ok.2 rfl, decodeWord_eq_ok.2 rfl, decodeWord_eq_ok.2 rfl,
    decodeWord_eq_ok.2 rfl, decodeWord_eq_ok.2 rfl⟩

end

section
/-! PROOF. The ids, the header and ENCODE_HEADER: EncodeHeaderWritesSixteenBytes. -/

namespace Sys2Proof.Machine

/-! ### The ids -/

/-- The format of an id has that id (R67). -/
theorem toNat_of_format {id : BitVec 4} {f : DataFormat} (h : DataFormat.ofId id = some f) : id.toNat = f.id := by
  unfold DataFormat.ofId at h
  split at h <;> cases h <;> assumption

/-- The colour space of an id has that id (R69). -/
theorem toNat_of_colorSpace {id : BitVec 4} {c : ColorSpace} (h : ColorSpace.ofId id = some c) : id.toNat = c.id := by
  unfold ColorSpace.ofId at h
  split at h <;> cases h <;> assumption

/-- Ids 4 to 15 are no colour space (R69). -/
theorem colorSpace_ofId_eq_none : ∀ id : BitVec 4, 3 < id.toNat → ColorSpace.ofId id = none := by decide

theorem format_ofId_id (f : DataFormat) : DataFormat.ofId (BitVec.ofNat 4 f.id) = some f := by cases f <;> rfl

theorem colorSpace_ofId_id (c : ColorSpace) : ColorSpace.ofId (BitVec.ofNat 4 c.id) = some c := by cases c <;> rfl

theorem format_id_le (f : DataFormat) : f.id ≤ 9 := by cases f <;> decide

theorem colorSpace_id_le (c : ColorSpace) : c.id ≤ 3 := by cases c <;> decide

/-! ### The header's bytes -/

/-- The four bytes of a 32-bit value are its fields of 8 bits (R51). -/
theorem bytesLE_four (v : BitVec 32) : bytesLE 4 v.toNat =
    [v.extractLsb' 0 8, v.extractLsb' 8 8, v.extractLsb' 16 8, v.extractLsb' 24 8] := by
  have hbyte : ∀ k, BitVec.ofNat 8 (v.toNat / 2 ^ k) = v.extractLsb' k 8 := fun k =>
    BitVec.eq_of_toNat_eq (by rw [BitVec.extractLsb'_toNat, Nat.shiftRight_eq_div_pow, BitVec.toNat_ofNat])
  simp only [bytesLE, Nat.div_div_eq_div_mul, ← hbyte]
  simp

/-- A 16-bit value below 256 is its low byte and a zero byte (R51). -/
theorem bytesLE_two {n : Nat} (h : n < 256) : bytesLE 2 n = [BitVec.ofNat 8 n, 0x00] := by
  simp [bytesLE, Nat.div_eq_of_lt h]

/-- The sixteen bytes of header layout version 1 (R134). -/
theorem headerBytes_eq (w h : BitVec 32) (f : DataFormat) (c : ColorSpace) : headerBytes w.toNat h.toNat f c =
    [w.extractLsb' 0 8, w.extractLsb' 8 8, w.extractLsb' 16 8, w.extractLsb' 24 8,
      h.extractLsb' 0 8, h.extractLsb' 8 8, h.extractLsb' 16 8, h.extractLsb' 24 8,
      BitVec.ofNat 8 f.id, 0x00, BitVec.ofNat 8 c.id, 0x00, 0x00, 0x00, 0x00, 0x00] := by
  have hf := format_id_le f
  have hc := colorSpace_id_le c
  rw [headerBytes, bytesLE_four, bytesLE_four, bytesLE_two (by omega), bytesLE_two (by omega)]
  rfl

/-! ### The command -/

theorem exec_encodeHeader {s : State} {f : DataFormat} {c : ColorSpace} (hf : DataFormat.ofId s.cfg.format = some f)
    (hc : ColorSpace.ofId s.cfg.dstCs = some c) (hdims : s.checkDims = .ok ()) :
    exec .encodeHeader s = .next (s.writeHeader f c).finish := by
  have hrule := encodeHeaderRule_eq_ok.2 ⟨f, c, hf, hc, hdims, rfl⟩
  simp only [exec, execEncodeHeader, hrule, complete_ok]

/-- The header written stands at OUT[0..15] (R135). -/
theorem readOut_writeHeader {s : State} {f : DataFormat} {c : ColorSpace} {k : Nat} (hk : k < 16) :
    (s.writeHeader f c).finish.readOut k = (headerBytes s.width.toNat s.height.toNat f c)[k]? := by
  rw [State.readOut, State.finish_outMem, State.writeHeader, State.writeOut_outMem, Memory.read_writeBytes,
    headerBytes_length, if_pos (by omega), Nat.sub_zero, State.widthNat, State.heightNat]

/-- OUT from 16 up is as it was. -/
theorem readOut_writeHeader_outside {s : State} {f : DataFormat} {c : ColorSpace} {a : Nat} (ha : 16 ≤ a) :
    (s.writeHeader f c).finish.readOut a = s.readOut a :=
  Memory.read_writeBytes_outside _ _ _ _ (.inr (by rw [headerBytes_length]; omega))

end Sys2Proof.Machine

open Sys2Proof Sys2Proof.Machine

/-- Settles O19: the header is its sixteen bytes, and OUT[0..15] reads them where they were written. -/
theorem encodeHeaderWritesSixteenBytes : Obligations.EncodeHeaderWritesSixteenBytes := by
  refine ⟨⟨rfl, rfl, rfl, fun id => ⟨ofId_eq_none id, colorSpace_ofId_eq_none id⟩⟩, fun w h f c =>
    ⟨headerBytes_eq w h f c, format_ofId_id f, format_id_le f, colorSpace_ofId_id c, colorSpace_id_le c⟩,
    fun s f c hf hc hw hh => ?_⟩
  have hdims : s.checkDims = .ok () := checkDims_eq_ok.2 ⟨BitVec.toNat_ne.1 hw, BitVec.toNat_ne.1 hh⟩
  have hread (k : Nat) (hk : k < 16) := readOut_writeHeader (s := s) (f := f) (c := c) hk
  simp only [headerBytes_eq] at hread
  refine ⟨_, exec_encodeHeader hf hc hdims, fun k hk => ?_, fun k hk => ?_, ?_, hread 9 (by decide), ?_,
    fun k hlo hhi => ?_, fun a ha => readOut_writeHeader_outside ha, rfl⟩
  · rw [hread k (by omega)]
    interval_cases k <;> rfl
  · rw [hread (4 + k) (by omega)]
    interval_cases k <;> rfl
  · rw [hread 8 (by decide), ← BitVec.ofNat_toNat, toNat_of_format hf]
    rfl
  · rw [hread 10 (by decide), ← BitVec.ofNat_toNat, toNat_of_colorSpace hc]
    rfl
  · rw [hread k (by omega)]
    interval_cases k <;> rfl

end

section
/-! PROOF. The formats: the layout of an encoded pixel and the bytes of a row, EncodedPixelLayout,
FormatMetadataAndStride. -/

namespace Sys2Proof.Machine

/-! ### An encoded pixel -/

/-- The quantizer that encodes a channel of a per-channel kind (R104 to R106). -/
inductive ChannelQuantizer : NumericKind → (Word → Encoded) → Prop where
  | float32 : ChannelQuantizer .float32 qF32
  | float16 : ChannelQuantizer .float16 qF16
  | fixed8 : ChannelQuantizer .fixed8 qFx8

/-- A channel is encoded in the channel width of its format (R68). -/
theorem ChannelQuantizer.length {f : DataFormat} {q : Word → Encoded} (hq : ChannelQuantizer f.kind q) (v : Word) :
    (q v).bytes.length = f.byteWidth := by
  unfold DataFormat.byteWidth
  generalize f.kind = kind at hq ⊢
  cases hq with
  | float32 => exact qF32_length v
  | float16 => exact qF16_length v
  | fixed8 => exact qFx8_length v

/-- A pixel of a per-channel format is its lanes from R up, each through the kind's quantizer (R110 to R119). -/
theorem pe_bytes {f : DataFormat} {q : Word → Encoded} (hq : ChannelQuantizer f.kind q) (t : Sample) :
    (pe f t).bytes = (([t.r, t.g, t.b, t.a].take f.channels).map fun v => (q v).bytes).flatten := by
  cases f <;> cases hq <;> simp [pe, DataFormat.channels]

theorem lanes_getElem? (t : Sample) {n : Nat} {j : Fin 4} (hj : j.val < n) :
    ([t.r, t.g, t.b, t.a].take n)[j.val]? = some (t.lane j) := by
  rw [List.getElem?_take_of_lt hj]
  fin_cases j <;> rfl

/-- Block `j` of blocks of `n` bytes each, one after the other. -/
theorem take_drop_flatten {blocks : List (List Byte)} {n j : Nat} {b : List Byte} (hn : ∀ x ∈ blocks, x.length = n)
    (hj : blocks[j]? = some b) : (blocks.flatten.drop (j * n)).take n = b := by
  induction blocks generalizing j with
  | nil => cases hj
  | cons x xs ih =>
    obtain ⟨hx, hxs⟩ := List.forall_mem_cons.1 hn
    cases j with
    | zero =>
      obtain rfl : x = b := by simpa using hj
      simp [← hx]
    | succ j =>
      rw [← ih hxs (by simpa using hj), List.flatten_cons, Nat.succ_mul, Nat.add_comm, ← hx,
        List.drop_length_add_append]

/-- Channel `j` of a pixel stands at byte `j × bw` and is the encoding of lane `j` (R73). -/
theorem pe_channel {f : DataFormat} {q : Word → Encoded} (hq : ChannelQuantizer f.kind q) (t : Sample) {j : Fin 4}
    (hj : j.val < f.channels) :
    ((pe f t).bytes.drop (j.val * f.byteWidth)).take f.byteWidth = (q (t.lane j)).bytes := by
  rw [pe_bytes hq]
  refine take_drop_flatten (List.forall_mem_map.2 fun v _ => hq.length v) ?_
  rw [List.getElem?_map, lanes_getElem? t hj, Option.map_some]

/-- An RGBE8 pixel is encoded whole (R120). -/
theorem pe_rgbe {f : DataFormat} (hf : f.kind = .rgbe) (t : Sample) : pe f t = qRgbe t.r t.g t.b := by
  cases f with
  | rgbe8 => rfl
  | _ => cases hf

/-! ### A row -/

/-- A row of a non-packed format is padded to the next multiple of 4 bytes (R125, R126). -/
theorem stride_of_not_packed {f : DataFormat} (b w : Nat) (hb : f.bpp = b) (hp : f.packed = false) :
    f.stride w = 4 * ((w * b + 3) / 4) := by
  rw [DataFormat.stride, DataFormat.pad, DataFormat.rowBytes, hp, hb, if_neg Bool.false_ne_true]
  omega

/-- A row of a packed format is its pixels (R125, R126). -/
theorem stride_of_packed {f : DataFormat} (b w : Nat) (hb : f.bpp = b) (hp : f.packed = true) : f.stride w = w * b := by
  rw [DataFormat.stride, DataFormat.pad, DataFormat.rowBytes, hp, hb, if_pos rfl, Nat.add_zero]

end Sys2Proof.Machine

open Sys2Proof Sys2Proof.Machine

/-- Settles O35: an encoded pixel is its channels one after the other, all of one width. -/
theorem encodedPixelLayout : Obligations.EncodedPixelLayout := by
  intro f t
  refine ⟨pe_length f t, fun j hj => ?_, fun hf => pe_rgbe hf t, rfl, rfl, rfl, rfl⟩
  have hchannel (q : Word → Encoded) (hq : ChannelQuantizer f.kind q) := pe_channel hq t hj
  refine ⟨fun hf => ?_, fun hf => ?_, fun hf => ?_⟩ <;> rw [DataFormat.byteWidth, hf] at hchannel
  · exact hchannel _ .float32
  · exact hchannel _ .float16
  · simpa using hchannel _ .fixed8

/-- Settles O36: the table of the formats, and each stride from its BPP and its packed flag. -/
theorem formatMetadataAndStride : Obligations.FormatMetadataAndStride := by
  refine ⟨fun f => by cases f <;> rfl, fun f w => ⟨rfl, rfl, rfl⟩, fun w _ => ?_⟩
  rw [stride_of_not_packed (f := .r32f) 4 w rfl rfl, stride_of_not_packed (f := .rg32f) 8 w rfl rfl,
    stride_of_not_packed (f := .rgba32f) 16 w rfl rfl, stride_of_not_packed (f := .r16f) 2 w rfl rfl,
    stride_of_packed (f := .packedR16f) 2 w rfl rfl, stride_of_not_packed (f := .rg16f) 4 w rfl rfl,
    stride_of_not_packed (f := .rgba16f) 8 w rfl rfl, stride_of_not_packed (f := .r8) 1 w rfl rfl,
    stride_of_packed (f := .packedR8) 1 w rfl rfl, stride_of_not_packed (f := .rgbe8) 4 w rfl rfl]
  omega

end

section
/-! PROOF. The engine's turn: IllegalCommandReportsIllegalCmd, StepRunsTheCommandInExecution. -/

namespace Sys2Proof.Machine

/-- An illegal word completes with ILLEGAL_CMD (R155). -/
theorem engineStep_of_illegal {s : State} (hop : s.curOp = .illegal) : engineStep s = .next (s.fail .illegalCmd) := by
  simp [engineStep, hop, execIllegal]

theorem engineStep_of_command {s : State} {i : Instr} (hop : s.curOp = .command i) : engineStep s = exec i s := by
  simp [engineStep, hop]

/-- A step of a block with no mark, at the engine's turn, is the completion of the command in execution. -/
theorem step_of_mover_engine {s : State} (hmark : s.faultMark = none) (hmover : s.mover = .engine) :
    step s = s.useTurn.settle (engineStep s.useTurn) := by
  simp [step, hmark, unmarkedStep, hmover]

theorem step_of_command {s : State} {i : Instr} (hmark : s.faultMark = none) (hmover : s.mover = .engine)
    (hop : s.curOp = .command i) : step s = s.useTurn.settle (exec i s.useTurn) := by
  rw [step_of_mover_engine hmark hmover, engineStep_of_command (s := s.useTurn) hop]

/-- A word that decodes is that command in execution (R154). -/
theorem curOp_ofWord {w : Word} {i : Instr} (h : decodeWord w = .ok i) : CurOp.ofWord w = .command i := by
  simp [CurOp.ofWord, h]

@[simp] theorem withFetchWord_mover (s : State) (nbits w : Nat) : (s.withFetchWord nbits w).mover = .engine := rfl

/-- The turn that `withFetchWord` gives the engine used up, the word is just issued and no mark is set. -/
theorem withFetchWord_useTurn (s : State) (nbits w : Nat) : (s.withFetchWord nbits w).useTurn =
    { s with status := s.status.issued, curOp := CurOp.ofWord (tableWord nbits w), faultMark := none } := rfl

end Sys2Proof.Machine

open Sys2Proof Sys2Proof.Machine

/-- Settles O5: the completion of an illegal word is an error report, which writes STATUS alone. -/
theorem illegalCommandReportsIllegalCmd : Obligations.IllegalCommandReportsIllegalCmd :=
  fun _ hop => engineStep_of_illegal hop

/-- Settles O55: a step at the engine's turn is the completion, settled, and `withFetchWord` issues the word and gives
the engine the turn. -/
theorem stepRunsTheCommandInExecution : Obligations.StepRunsTheCommandInExecution := by
  intro s i
  refine ⟨fun hmark hmover hop => ?_, fun hmark hmover hop => ?_, fun w u hw hdecode hu => ?_⟩
  · rw [step_of_mover_engine hmark hmover, engineStep_of_illegal (s := s.useTurn) hop]
    rfl
  · rw [step_of_command hmark hmover hop]
    exact ⟨fun t ht => by rw [ht, settle_next], fun f hf => by rw [hf, settle_fault]⟩
  · have hop : CurOp.ofWord (tableWord 64 w) = .command i := by
      rw [tableWord, Nat.mod_eq_of_lt hw, curOp_ofWord hdecode]
    have hturn : (s.withFetchWord 64 w).useTurn = u := by
      rw [withFetchWord_useTurn, hop, hu]
      rfl
    rw [step_of_command rfl (withFetchWord_mover s 64 w) hop, hturn]
    exact ⟨fun t ht => by rw [ht, settle_next], fun f hf => by rw [hf, settle_fault]⟩

end

section
/-! SUPPORT. The checks that a command fails, and TRANSFORM's completion on a legal pair (R79, R98, R152, R153). -/

namespace Sys2Proof.Machine

/-! ### The ids -/

/-- Ids 0 to 9 are the formats (R67). -/
theorem exists_format {id : BitVec 4} (h : id.toNat ≤ 9) : ∃ f, DataFormat.ofId id = some f := by
  refine Option.ne_none_iff_exists'.1 ?_
  revert id
  decide

/-- Ids 0 to 3 are the colour spaces (R69). -/
theorem exists_colorSpace {id : BitVec 4} (h : id.toNat ≤ 3) : ∃ c, ColorSpace.ofId id = some c := by
  refine Option.ne_none_iff_exists'.1 ?_
  revert id
  decide

/-- A space has one id. -/
theorem colorSpace_id_unique {id id' : BitVec 4} {c : ColorSpace} (h : ColorSpace.ofId id = some c)
    (h' : ColorSpace.ofId id' = some c) : id = id' :=
  BitVec.eq_of_toNat_eq (by rw [toNat_of_colorSpace h, toNat_of_colorSpace h'])

/-- Id 0 is NonColor and no other space is. -/
theorem id_eq_zero_iff {id : BitVec 4} {c : ColorSpace} (h : ColorSpace.ofId id = some c) :
    id = 0 ↔ c = .nonColor := by
  constructor
  · rintro rfl
    exact (Option.some.inj h).symm
  · rintro rfl
    exact colorSpace_id_unique h rfl

/-- The pairs that mix NonColor with a colour space are no pair (R79). -/
theorem colorPair_of_eq_none_iff {src dst : ColorSpace} :
    ColorPair.of src dst = none ↔ ¬(src = .nonColor ↔ dst = .nonColor) := by
  cases src <;> cases dst <;> simp [ColorPair.of]

/-! ### The checks -/

theorem format_badFormat {s : State} (h : 9 < s.cfg.format.toNat) : s.format = .error (.raise .badFormat) := by
  simp [State.format, ofId_eq_none _ h]

theorem target_badColorspace {s : State} (h : 3 < s.cfg.dstCs.toNat) :
    s.target = .error (.raise .badColorspace) := by
  simp [State.target, colorSpace_ofId_eq_none _ h]

theorem checkDims_zeroDim {s : State} (h : s.width = 0 ∨ s.height = 0) :
    s.checkDims = .error (.raise .zeroDim) :=
  if_pos (h.imp (congrArg BitVec.toNat) (congrArg BitVec.toNat))

theorem pair_badColorspace {s : State} (h : 3 < s.cfg.srcCs.toNat ∨ 3 < s.cfg.dstCs.toNat) :
    s.pair = .error (.raise .badColorspace) := by
  rcases h with h | h <;> simp [State.pair, colorSpace_ofId_eq_none _ h]

/-- Two legal spaces are a pair where neither or both are NonColor (R79). -/
theorem exists_spaces {s : State} (hsrc : s.cfg.srcCs.toNat ≤ 3) (hdst : s.cfg.dstCs.toNat ≤ 3) :
    ∃ src dst, ColorSpace.ofId s.cfg.srcCs = some src ∧ ColorSpace.ofId s.cfg.dstCs = some dst ∧
      ((s.cfg.srcCs = 0 ↔ s.cfg.dstCs = 0) ↔ ColorPair.of src dst ≠ none) := by
  obtain ⟨src, hsrc⟩ := exists_colorSpace hsrc
  obtain ⟨dst, hdst⟩ := exists_colorSpace hdst
  refine ⟨src, dst, hsrc, hdst, ?_⟩
  rw [ne_eq, colorPair_of_eq_none_iff, not_not, id_eq_zero_iff hsrc, id_eq_zero_iff hdst]

theorem pair_csMismatch {s : State} (hsrc : s.cfg.srcCs.toNat ≤ 3) (hdst : s.cfg.dstCs.toNat ≤ 3)
    (h : ¬(s.cfg.srcCs = 0 ↔ s.cfg.dstCs = 0)) : s.pair = .error (.raise .csMismatch) := by
  obtain ⟨src, dst, hs, hd, hiff⟩ := exists_spaces hsrc hdst
  rw [hiff, not_not] at h
  simp [State.pair, hs, hd, h]

/-! ### A command's first failing check -/

/-- A check that passes leaves the completion to the rest of the rule. -/
theorem complete_bind_ok {α : Type} {s : State} {x : Except Stop α} {a : α} (f : α → Except Stop State)
    (h : x = .ok a) : complete s (x >>= f) = complete s (f a) := by
  rw [h]
  rfl

/-- A check that fails is the completion's error (R155). -/
theorem complete_bind_raise {α : Type} {s : State} {x : Except Stop α} {c : ErrorCode} (f : α → Except Stop State)
    (h : x = .error (.raise c)) : complete s (x >>= f) = .next (s.fail c) := by
  rw [h]
  rfl

/-! ### TRANSFORM -/

/-- A legal pair's completion writes SOUT and STATUS alone (R98). -/
theorem exec_transform {s : State} {src dst : ColorSpace} {p : ColorPair}
    (hsrc : ColorSpace.ofId s.cfg.srcCs = some src) (hdst : ColorSpace.ofId s.cfg.dstCs = some dst)
    (hp : ColorPair.of src dst = some p) :
    exec .transform s = .next { s with sout := ct s.inst p s.sin }.finish :=
  complete_bind_ok _ (pair_eq_ok.2 ⟨src, dst, hsrc, hdst, hp⟩)

/-- A pair of equal spaces is an identity (R88 to R91). -/
theorem ct_of_eq_spaces {c : ColorSpace} {p : ColorPair} (h : ColorPair.of c c = some p) (inst : Instance)
    (x : Sample) : ct inst p x = x := by
  cases c <;> cases h <;> rfl

/-- Where the spaces differ, each colour lane is canonicalised last (R87, R92 to R97). -/
theorem ct_of_ne_spaces {src dst : ColorSpace} {p : ColorPair} (h : ColorPair.of src dst = some p) (hne : src ≠ dst)
    (inst : Instance) (x : Sample) : ∃ y : Sample, ct inst p x = y.mapColor canon := by
  cases p with
  | nonColor | xyzToXyz | srgbToSrgb | linearToLinear =>
    cases src <;> cases dst <;> cases h
    exact absurd rfl hne
  | srgbToLinear | linearToSrgb | linearToXyz | xyzToLinear | srgbToXyz | xyzToSrgb => exact ⟨_, rfl⟩

/-- Lane A is kept by every pair (R78). -/
theorem ct_a (inst : Instance) (p : ColorPair) (x : Sample) : (ct inst p x).a = x.a := by cases p <;> rfl

theorem canon_of_isNaN {v : Word} (h : F64.isNaN v = true) : canon v = F64.canonNaN := if_pos h

theorem canon_of_not_isNaN {v : Word} (h : F64.isNaN v = false) : canon v = v := if_neg (by simp [h])

/-- A canonicalised value that is a NaN is the canonical one (R87). -/
theorem eq_canonNaN_of_canon {v : Word} (h : F64.isNaN (canon v) = true) : canon v = F64.canonNaN := by
  cases hv : F64.isNaN v with
  | true => exact canon_of_isNaN hv
  | false =>
    rw [canon_of_not_isNaN hv, hv] at h
    cases h

end Sys2Proof.Machine
end

section
/-! PROOF. The checks of the single-unit commands and the results of TRANSFORM:
SingleUnitCommandsReportFirstFailingCheck, TransformCopiesOnEqualSpaces, TransformAppliesTransferFunction,
TransformAppliesMatrix, TransformKeepsAlphaAndCanonicalisesNaN. -/

open Sys2Proof Sys2Proof.Machine

/-- Settles O9: each check before the failing one passes, and the failing one ends the rule. -/
theorem singleUnitCommandsReportFirstFailingCheck : Obligations.SingleUnitCommandsReportFirstFailingCheck := by
  intro s
  refine ⟨fun hformat => ?_, fun hformat hdst => ?_, fun hformat hdst hdims => ?_, fun hspace => ?_,
    fun hsrc hdst hmix => ?_⟩
  · have hbad := format_badFormat hformat
    exact ⟨complete_bind_raise _ hbad, complete_bind_raise _ hbad⟩
  · obtain ⟨f, hf⟩ := exists_format hformat
    exact (complete_bind_ok _ (format_eq_ok.2 hf)).trans (complete_bind_raise _ (target_badColorspace hdst))
  · obtain ⟨f, hf⟩ := exists_format hformat
    obtain ⟨c, hc⟩ := exists_colorSpace hdst
    exact (complete_bind_ok _ (format_eq_ok.2 hf)).trans
      ((complete_bind_ok _ (target_eq_ok.2 hc)).trans (complete_bind_raise _ (checkDims_zeroDim hdims)))
  · exact complete_bind_raise _ (pair_badColorspace hspace)
  · exact complete_bind_raise _ (pair_csMismatch hsrc hdst hmix)

/-- Settles O15: a legal pair completes, lane A passes through every pair, and differing spaces canonicalise last. -/
theorem transformKeepsAlphaAndCanonicalisesNaN : Obligations.TransformKeepsAlphaAndCanonicalisesNaN := by
  refine ⟨fun v => ⟨canon_of_isNaN, canon_of_not_isNaN⟩, fun s hsrc hdst hmix => ?_⟩
  obtain ⟨src, dst, hs, hd, hiff⟩ := exists_spaces hsrc hdst
  obtain ⟨p, hp⟩ := Option.ne_none_iff_exists'.1 (hiff.1 hmix)
  refine ⟨_, exec_transform hs hd hp, ct_a s.inst p s.sin, fun hne v hv hnan => ?_,
    fun src' dst' p' hs' hd' hp' => ?_⟩
  · obtain ⟨y, hy⟩ := ct_of_ne_spaces hp (by rintro rfl; exact hne (colorSpace_id_unique hs hd)) s.inst s.sin
    simp only [State.finish_sout, hy] at hv
    rcases hv with rfl | rfl | rfl <;> exact eq_canonNaN_of_canon hnan
  · obtain rfl := Option.some.inj (hs.symm.trans hs')
    obtain rfl := Option.some.inj (hd.symm.trans hd')
    obtain rfl := Option.some.inj (hp.symm.trans hp')
    rfl

/-- Settles O12: the pair of two equal spaces is an identity. -/
theorem transformCopiesOnEqualSpaces : Obligations.TransformCopiesOnEqualSpaces := by
  refine ⟨fun _ _ => ⟨rfl, rfl, rfl, rfl⟩, fun s hsrc heq => ?_⟩
  obtain ⟨c, hc⟩ := exists_colorSpace hsrc
  obtain ⟨p, hp⟩ : ∃ p, ColorPair.of c c = some p := by cases c <;> exact ⟨_, rfl⟩
  rw [exec_transform hc (heq ▸ hc) hp, ct_of_eq_spaces hp]
  rfl

/-- Settles O13: the two pairs between SRGB and LinearSRGB. -/
theorem transformAppliesTransferFunction : Obligations.TransformAppliesTransferFunction := by
  refine fun s => ⟨fun hsrc hdst => ?_, fun hsrc hdst => ?_⟩
  · exact exec_transform (src := .srgb) (dst := .linearSrgb) (by rw [hsrc]; rfl) (by rw [hdst]; rfl) rfl
  · exact exec_transform (src := .linearSrgb) (dst := .srgb) (by rw [hsrc]; rfl) (by rw [hdst]; rfl) rfl

/-- Settles O14: the four pairs with CIEXYZ, each row of the matrix being `dotRow`. -/
theorem transformAppliesMatrix : Obligations.TransformAppliesMatrix := by
  intro s dot hdot
  obtain rfl : dot = dotRow := by
    funext m c0 c1 c2
    exact hdot m c0 c1 c2
  refine ⟨fun hsrc hdst => ?_, fun hsrc hdst => ?_, fun hsrc hdst r g b hr hg hb => ?_, fun hsrc hdst => ?_⟩
  · exact exec_transform (src := .linearSrgb) (dst := .ciexyz) (by rw [hsrc]; rfl) (by rw [hdst]; rfl) rfl
  · exact exec_transform (src := .ciexyz) (dst := .linearSrgb) (by rw [hsrc]; rfl) (by rw [hdst]; rfl) rfl
  · subst hr hg hb
    exact exec_transform (src := .srgb) (dst := .ciexyz) (by rw [hsrc]; rfl) (by rw [hdst]; rfl) rfl
  · exact exec_transform (src := .ciexyz) (dst := .srgb) (by rw [hsrc]; rfl) (by rw [hdst]; rfl) rfl

end

section
/-! SUPPORT. The power unit (R82), one rule per class of operand, and the sign of the correctly rounded power. -/

namespace Sys2Proof.Machine

/-! ### Order -/

theorem F64.key_of_isZero {v : Word} (h : F64.isZero v = true) : F64.key v = 0 := by
  simp only [F64.isZero, decide_eq_true_eq] at h
  simp [F64.key, h]

/-- A pattern with its sign bit clear that is no NaN is at least +0.0 (R12). -/
theorem F64.posZero_le_of_sign {v : Word} (hnan : F64.isNaN v = false) (hs : F64.sign v = false) :
    F64.le F64.posZero v = true := by
  obtain ⟨-, hle, -⟩ := F64.compare_of_not_isNaN (a := F64.posZero) (by decide) hnan
  rw [hle, decide_eq_true_eq, F64.key_of_isZero (v := F64.posZero) (by decide)]
  simp [F64.key, hs]

theorem F64.not_isNaN_of_le {a b : Word} (h : F64.le a b = true) : F64.isNaN b = false := by
  simp only [F64.le, Bool.and_eq_true, Bool.not_eq_true'] at h
  obtain ⟨⟨-, hb⟩, -⟩ := h
  exact hb

theorem isFinitePositive_iff {x : Word} :
    isFinitePositive x = true ↔ F64.isFinite x = true ∧ F64.sign x = false ∧ F64.isZero x = false := by
  simp [isFinitePositive, and_assoc]

/-- A finite value above +0.0 has its sign bit clear and is no zero. -/
theorem isFinitePositive_of_lt {x : Word} (hfinite : F64.isFinite x = true) (h : F64.lt F64.posZero x = true) :
    isFinitePositive x = true := by
  obtain ⟨hlt, -⟩ := F64.compare_of_not_isNaN (a := F64.posZero) (by decide) (F64.isNaN_of_isFinite hfinite)
  rw [hlt, decide_eq_true_eq, F64.key_of_isZero (v := F64.posZero) (by decide)] at h
  have hzero : F64.isZero x = false := by
    refine Bool.eq_false_iff.2 fun hz => ?_
    rw [F64.key_of_isZero hz] at h
    exact absurd h (Int.lt_irrefl 0)
  have hsign : F64.sign x = false := by
    refine Bool.eq_false_iff.2 fun hs => ?_
    simp only [F64.key, hs, if_true] at h
    omega
  exact isFinitePositive_iff.2 ⟨hfinite, hsign, hzero⟩

/-! ### The forcing of R82 (c) -/

/-- A magnitude cut off at that of an infinity, with the sign bit clear, is no NaN. -/
theorem ofSignMag_min_infMag (m : Nat) : F64.isNaN (F64.ofSignMag false (min m F64.infMag)) = false ∧
    F64.sign (F64.ofSignMag false (min m F64.infMag)) = false := by
  have hlt := F64.min_infMag_lt m
  refine ⟨?_, F64.sign_ofSignMag false hlt⟩
  rw [F64.isNaN, F64.mag_ofSignMag false hlt, decide_eq_false_iff_not]
  omega

/-- What is forced is at least +0.0. -/
theorem posZero_le_toNonNegative (r : Word) : F64.le F64.posZero (toNonNegative r) = true := by
  unfold toNonNegative
  split
  case isTrue h => exact h
  case isFalse =>
    obtain ⟨hnan, hsign⟩ := ofSignMag_min_infMag (F64.mag r)
    exact F64.posZero_le_of_sign hnan hsign

theorem sign_toNonNegative {r : Word} (h : F64.sign r = false) : F64.sign (toNonNegative r) = false := by
  unfold toNonNegative
  split
  case isTrue => exact h
  case isFalse =>
    obtain ⟨-, hsign⟩ := ofSignMag_min_infMag (F64.mag r)
    exact hsign

/-! ### One rule per class of base -/

theorem pow64_of_isNaN {u : PowUnit} {x y : Word} (h : F64.isNaN x = true) : pow64 u x y = F64.canonNaN := if_pos h

theorem pow64_posInf {u : PowUnit} {y : Word} (h : F64.lt F64.posZero y = true) :
    pow64 u F64.posInf y = F64.posInf := by
  have hnan : F64.isNaN F64.posInf = false := by decide
  simp [pow64, hnan, h]

theorem pow64_of_isFinitePositive {u : PowUnit} {x y : Word} (h : isFinitePositive x = true) :
    pow64 u x y = toNonNegative (powRaw u x y) := by
  obtain ⟨hfinite, -, -⟩ := isFinitePositive_iff.1 h
  have hinf : x ≠ F64.posInf := by
    rintro rfl
    exact absurd hfinite (by decide)
  simp [pow64, F64.isNaN_of_isFinite hfinite, hinf, h]

/-! ### The correctly rounded power of a positive base -/

theorem powCorrectlyRounded_of_isFinitePositive {x y : Word} (hx : isFinitePositive x = true)
    (hy : F64.isFinite y = true) : powCorrectlyRounded x y = powMagnitude x y := by
  obtain ⟨hfinite, hsign, hzero⟩ := isFinitePositive_iff.1 hx
  simp [powCorrectlyRounded, hfinite, hsign, hzero, hy]

theorem sign_roundScaled (r : Nat) (q : Int) : F64.sign (roundScaled r q) = false := by
  simp only [roundScaled]
  split <;> exact F64.sign_round ..

/-- Whatever the interval decides has its sign bit clear. -/
theorem sign_expNearest {z : Interval} {r : Word} (h : expNearest z = some r) : F64.sign r = false := by
  simp only [expNearest] at h
  split_ifs at h
  -- too large a power, too small a power, and one that both ends of the interval round to
  · cases h; decide
  · cases h; decide
  · cases h; exact sign_roundScaled ..

theorem sign_powExact (x y : Word) : F64.sign (powExact x y) = false := by
  obtain ⟨p, hp, hle, -⟩ := powExact_nearest x y
  rw [hp]
  exact F64.sign_ofSignMag false (Nat.lt_of_le_of_lt hle (by decide))

theorem sign_powMagnitude (x y : Word) : F64.sign (powMagnitude x y) = false := by
  unfold powMagnitude
  split
  · decide
  · split
    next r hr => exact sign_expNearest hr
    next => exact sign_powExact x y

end Sys2Proof.Machine
end

section
/-! SUPPORT. The transfer functions at the zeros, the infinities and NaN (R83, R84). -/

namespace Sys2Proof.Machine

/-! ### Zeros as patterns, and products, quotients and comparisons with a zero -/

namespace F64

/-- A pattern is its sign bit above its magnitude. -/
theorem ofSignMag_sign_mag (v : Word) : ofSignMag (sign v) (mag v) = v := by
  have hsign : (sign v).toNat = v.toNat / 2 ^ 63 % 2 := getLsbD_toNat v 63
  have hlt := v.isLt
  refine BitVec.eq_of_toNat_eq ?_
  rw [ofSignMag, BitVec.toNat_ofNat, mag]
  cases h : sign v with
  | false =>
    rw [h, Bool.toNat_false] at hsign
    simp only [Bool.false_eq_true, if_false]
    omega
  | true =>
    rw [h, Bool.toNat_true] at hsign
    simp only [if_true]
    omega

theorem ofSignMag_of_isZero {v : Word} (h : isZero v = true) : ofSignMag (sign v) 0 = v := by
  simp only [isZero, decide_eq_true_eq] at h
  rw [← h, ofSignMag_sign_mag]

theorem units_of_isZero {v : Word} (h : isZero v = true) : units v = 0 := by
  simp only [isZero, decide_eq_true_eq] at h
  rw [units, h, unitsOf_zero]

theorem round_zero (s : Bool) (d : Nat) : round s 0 d = ofSignMag s 0 := by
  rw [round, roundMag_zero, Nat.zero_min]

theorem div_of_isZero_left {a b : Word} (ha : isZero a = true) (hb : isFinite b = true) (hz : isZero b = false) :
    div a b = ofSignMag (sign a != sign b) 0 := by
  rw [div_of_isFinite (isFinite_of_isZero ha) hb hz, units_of_isZero ha, Nat.zero_mul, round_zero]

theorem mul_of_isZero_right {a b : Word} (ha : isFinite a = true) (hb : isZero b = true) :
    mul a b = ofSignMag (sign a != sign b) 0 := by
  rw [mul_of_isFinite ha (isFinite_of_isZero hb), units_of_isZero hb, Nat.mul_zero, round_zero]

theorem le_of_isZero {a b : Word} (ha : isZero a = true) (hb : le posZero b = true) : le a b = true := by
  have hkey : key a = key posZero := by rw [key_of_isZero ha, key_of_isZero (v := posZero) (by decide)]
  have hnan := isNaN_of_isFinite (isFinite_of_isZero ha)
  rw [← hb, le, le, hkey, hnan]
  rfl

end F64

/-! ### The segments -/

section

variable {p : Instance} {v : Word}

theorem tfDec_linear (h : F64.le v p.tf.k0 = true) : tfDec p v = F64.div v p.tf.phi := if_pos h

theorem tfDec_power (h : F64.le v p.tf.k0 = false) :
    tfDec p v = pow64 p.pow (F64.div (F64.add v p.tf.a) p.tf.a1) p.tf.g := if_neg (by simp [h])

theorem tfEnc_linear (h : F64.le v p.tf.l0 = true) : tfEnc p v = F64.mul p.tf.phi v := if_pos h

theorem tfEnc_power (h : F64.le v p.tf.l0 = false) :
    tfEnc p v = F64.sub (F64.mul p.tf.a1 (pow64 p.pow v p.tf.gi)) p.tf.a := if_neg (by simp [h])

/-! ### NaN, whatever the constants -/

theorem tfDec_of_isNaN (h : F64.isNaN v = true) : tfDec p v = F64.canonNaN := by
  obtain ⟨-, hle, -⟩ := F64.compare_of_isNaN (b := p.tf.k0) (.inl h)
  rw [tfDec_power hle, F64.add_of_isNaN (.inl h), F64.div_of_isNaN (.inl rfl), pow64_of_isNaN rfl]

theorem tfEnc_of_isNaN (h : F64.isNaN v = true) : tfEnc p v = F64.canonNaN := by
  obtain ⟨-, hle, -⟩ := F64.compare_of_isNaN (b := p.tf.l0) (.inl h)
  rw [tfEnc_power hle, pow64_of_isNaN h, F64.mul_of_isNaN (.inr rfl), F64.sub_of_isNaN (.inl rfl)]

/-! ### The zeros and the infinities, with the default constants -/

theorem tfDec_of_isZero (hp : p.tf = defaultTransfer) (hv : F64.isZero v = true) : tfDec p v = v := by
  rw [tfDec_linear (F64.le_of_isZero hv (by rw [hp]; decide)), hp, F64.div_of_isZero_left hv (by decide) (by decide),
    show F64.sign defaultTransfer.phi = false by decide, Bool.bne_false, F64.ofSignMag_of_isZero hv]

theorem tfEnc_of_isZero (hp : p.tf = defaultTransfer) (hv : F64.isZero v = true) : tfEnc p v = v := by
  rw [tfEnc_linear (F64.le_of_isZero hv (by rw [hp]; decide)), hp, F64.mul_of_isZero_right (by decide) hv,
    show F64.sign defaultTransfer.phi = false by decide, Bool.false_bne, F64.ofSignMag_of_isZero hv]

theorem tfDec_posInf (hp : p.tf = defaultTransfer) : tfDec p F64.posInf = F64.posInf := by
  have hadd : F64.add F64.posInf defaultTransfer.a = F64.posInf :=
    F64.add_of_isInf_left (by decide) (by decide) (by decide)
  have hdiv : F64.div F64.posInf defaultTransfer.a1 = F64.posInf :=
    F64.div_of_isInf_left (by decide) (by decide)
  rw [tfDec_power (by rw [hp]; decide), hp, hadd, hdiv, pow64_posInf (by decide)]

theorem tfEnc_posInf (hp : p.tf = defaultTransfer) : tfEnc p F64.posInf = F64.posInf := by
  have hmul : F64.mul defaultTransfer.a1 F64.posInf = F64.posInf :=
    F64.mul_of_isInf (by decide) (by decide) (by decide)
  have hsub : F64.sub F64.posInf defaultTransfer.a = F64.posInf :=
    F64.add_of_isInf_left (by decide) (by decide) (by decide)
  rw [tfEnc_power (by rw [hp]; decide), hp, pow64_posInf (by decide), hmul, hsub]

theorem tfDec_negInf (hp : p.tf = defaultTransfer) : tfDec p (F64.neg F64.posInf) = F64.neg F64.posInf := by
  rw [tfDec_linear (by rw [hp]; decide), hp, F64.div_of_isInf_left (by decide) (by decide)]
  decide

theorem tfEnc_negInf (hp : p.tf = defaultTransfer) : tfEnc p (F64.neg F64.posInf) = F64.neg F64.posInf := by
  rw [tfEnc_linear (by rw [hp]; decide), hp, F64.mul_of_isInf (by decide) (by decide) (by decide)]
  decide

end

end Sys2Proof.Machine
end

section
/-! PROOF. The transfer functions and the power unit: PowerUnitMeetsItsAssumptions,
TransferFunctionSegmentsAndCorners. -/

open Sys2Proof Sys2Proof.Machine

/-- Settles O17: (a) and (b) are branches of the unit; (c) is what `toNonNegative` forces, and the correctly rounded
power of a positive base has its sign bit clear before that. -/
theorem powerUnitMeetsItsAssumptions : Obligations.PowerUnitMeetsItsAssumptions := by
  refine fun u x y => ⟨fun hnan => ?_, pow64_posInf, fun hfinite hpos => ?_⟩
  · rw [pow64_of_isNaN hnan, F64.isNaN_canonNaN]
  · have hx := isFinitePositive_of_lt hfinite hpos
    have hle := posZero_le_toNonNegative (powRaw u x y)
    rw [pow64_of_isFinitePositive hx]
    refine ⟨F64.not_isNaN_of_le hle, hle, fun hu hy => sign_toNonNegative ?_⟩
    rw [hu, powRaw, powCorrectlyRounded_of_isFinitePositive hx hy]
    exact sign_powMagnitude x y

/-- Settles O16: the segments are the two branches; a zero and -∞ take the linear one, +∞ and NaN the power one. -/
theorem transferFunctionSegmentsAndCorners : Obligations.TransferFunctionSegmentsAndCorners := by
  refine fun p => ⟨fun v => ⟨tfDec_linear, tfDec_power, tfEnc_linear, tfEnc_power⟩, fun hp => ⟨?_, ?_, ?_⟩⟩
  · rw [hp]
    exact ⟨rfl, rfl, rfl, rfl, rfl, rfl, rfl⟩
  · exact ⟨tfDec_of_isZero hp (by decide), tfDec_of_isZero hp (by decide), tfDec_posInf hp, tfDec_negInf hp,
      fun v hv => by rw [tfDec_of_isNaN hv, F64.isNaN_canonNaN]⟩
  · exact ⟨tfEnc_of_isZero hp (by decide), tfEnc_of_isZero hp (by decide), tfEnc_posInf hp, tfEnc_negInf hp,
      fun v hv => by rw [tfEnc_of_isNaN hv, F64.isNaN_canonNaN]⟩

end

section
/-! SUPPORT. The clamp of a channel to a range (R102 to R107), said once for the kinds: what it answers for each class
of value, its range and its clamp event. -/

namespace Sys2Proof.Machine

/-! ### Order -/

namespace F64

variable {a b : Word}

theorem lt_iff : lt a b = true ↔ isNaN a = false ∧ isNaN b = false ∧ key a < key b := by
  simp [lt, and_assoc]

theorem le_iff : le a b = true ↔ isNaN a = false ∧ isNaN b = false ∧ key a ≤ key b := by
  simp [le, and_assoc]

theorem lt_eq_false_of_le (h : le a b = true) : lt b a = false := by
  obtain ⟨-, -, hkey⟩ := le_iff.1 h
  refine Bool.eq_false_iff.2 fun h' => ?_
  obtain ⟨-, -, hkey'⟩ := lt_iff.1 h'
  omega

theorem le_of_lt (h : lt a b = true) : le a b = true := by
  obtain ⟨ha, hb, hkey⟩ := lt_iff.1 h
  exact le_iff.2 ⟨ha, hb, Int.le_of_lt hkey⟩

theorem le_of_lt_eq_false (ha : isNaN a = false) (hb : isNaN b = false) (h : lt b a = false) : le a b = true := by
  refine le_iff.2 ⟨ha, hb, ?_⟩
  simpa [lt, ha, hb] using h

theorem le_trans {c : Word} (h : le a b = true) (h' : le b c = true) : le a c = true := by
  obtain ⟨ha, -, hkey⟩ := le_iff.1 h
  obtain ⟨-, hc, hkey'⟩ := le_iff.1 h'
  exact le_iff.2 ⟨ha, hc, Int.le_trans hkey hkey'⟩

@[simp] theorem key_posZero : key posZero = 0 := key_of_isZero (by decide)

/-- The values equal to +0.0 are the two zeros. -/
theorem isZero_of_eq_posZero (h : eq a posZero = true) : isZero a = true := by
  simp only [eq, key_posZero, Bool.and_eq_true, decide_eq_true_eq] at h
  obtain ⟨-, hkey⟩ := h
  rw [isZero, decide_eq_true_eq]
  unfold key at hkey
  split at hkey <;> omega

/-- A zero is between +0.0 and every value from +0.0 up. -/
theorem posZero_le_of_isZero (h : isZero a = true) : le posZero a = true := by
  refine le_iff.2 ⟨by decide, isNaN_of_isFinite (isFinite_of_isZero h), ?_⟩
  rw [key_of_isZero h, key_posZero]

/-- A value from +0.0 up has at most the magnitude of each value above it. -/
theorem mag_le_of_posZero_le (h : le posZero a = true) (h' : le a b = true) : mag a ≤ mag b := by
  obtain ⟨-, -, hlow⟩ := le_iff.1 h
  obtain ⟨-, -, hhigh⟩ := le_iff.1 h'
  rw [key_posZero] at hlow
  have ha : (mag a : Int) ≤ key a := by
    cases hs : sign a <;> simp only [key, hs, if_true, Bool.false_eq_true, if_false] at hlow ⊢ <;> omega
  have hb : key b ≤ mag b := by
    unfold key
    split <;> omega
  omega

theorem units_le_of_posZero_le (h : le posZero a = true) (h' : le a b = true) : units a ≤ units b :=
  (unitsOf_strictMono 52).monotone (mag_le_of_posZero_le h h')

/-- A value from +0.0 up is −0.0 or has its sign bit clear. -/
theorem sign_of_posZero_le (h : le posZero a = true) (hz : isZero a = false) : sign a = false := by
  obtain ⟨-, -, hkey⟩ := le_iff.1 h
  rw [key_posZero] at hkey
  rw [isZero, decide_eq_false_iff_not] at hz
  refine Bool.eq_false_iff.2 fun hs => ?_
  simp only [key, hs, if_true] at hkey
  omega

end F64

/-! ### The clamp to a range -/

/-- The clamp to `[lo, hi]` with its clamp-event count; a NaN becomes +0.0 (R102, R103). -/
def clampTo (lo hi v : Word) : Word × Nat :=
  if F64.isNaN v then (F64.posZero, 1)
  else if F64.lt hi v then (hi, 1)
  else if F64.lt v lo then (lo, 1)
  else (v, 0)

section

variable {lo hi v : Word}

theorem clampTo_of_isNaN (h : F64.isNaN v = true) : clampTo lo hi v = (F64.posZero, 1) := if_pos h

theorem clampTo_above (h : F64.lt hi v = true) : clampTo lo hi v = (hi, 1) := by
  obtain ⟨-, hnan, -⟩ := F64.lt_iff.1 h
  simp [clampTo, hnan, h]

theorem clampTo_below (hrange : F64.le lo hi = true) (h : F64.lt v lo = true) : clampTo lo hi v = (lo, 1) := by
  obtain ⟨hnan, -, -⟩ := F64.lt_iff.1 h
  have habove : F64.lt hi v = false := F64.lt_eq_false_of_le (F64.le_trans (F64.le_of_lt h) hrange)
  simp [clampTo, hnan, habove, h]

theorem clampTo_within (h : F64.le lo v = true) (h' : F64.le v hi = true) : clampTo lo hi v = (v, 0) := by
  simp [clampTo, F64.not_isNaN_of_le h, F64.lt_eq_false_of_le h, F64.lt_eq_false_of_le h']

/-- The clamped value lies in the range. -/
theorem clampTo_range (hlo : F64.le lo F64.posZero = true) (hhi : F64.le F64.posZero hi = true) (v : Word) :
    F64.le lo (clampTo lo hi v).1 = true ∧ F64.le (clampTo lo hi v).1 hi = true := by
  obtain ⟨hnanLo, -, -⟩ := F64.le_iff.1 hlo
  obtain ⟨-, hnanHi, -⟩ := F64.le_iff.1 hhi
  have hrange := F64.le_trans hlo hhi
  unfold clampTo
  split_ifs with hnan habove hbelow
  · exact ⟨hlo, hhi⟩
  · exact ⟨hrange, F64.le_iff.2 ⟨hnanHi, hnanHi, Int.le_refl _⟩⟩
  · exact ⟨F64.le_iff.2 ⟨hnanLo, hnanLo, Int.le_refl _⟩, hrange⟩
  · simp only [Bool.not_eq_true] at hnan habove hbelow
    exact ⟨F64.le_of_lt_eq_false hnanLo hnan hbelow, F64.le_of_lt_eq_false hnan hnanHi habove⟩

/-- The clamp counts one event for a NaN and for a value outside the range (R103). -/
theorem clampTo_events (lo hi v : Word) :
    (clampTo lo hi v).2 = (F64.isNaN v || F64.lt hi v || F64.lt v lo).toNat := by
  unfold clampTo
  split_ifs with hnan habove hbelow
  · simp [hnan]
  · simp [habove]
  · simp [hbelow]
  · simp [hnan, habove, hbelow]

end

/-! ### The clamps of the kinds -/

theorem clampFloat_eq (limit v : Word) : clampFloat limit v = clampTo (F64.neg limit) limit v := rfl

theorem clampUnit_eq (v : Word) : clampUnit v = clampTo F64.posZero F64.one v := by
  unfold clampUnit
  split_ifs with hnan hbelow habove
  · exact (clampTo_of_isNaN hnan).symm
  · exact (clampTo_below (by decide) hbelow).symm
  · exact (clampTo_above habove).symm
  · simp [clampTo, hnan, hbelow, habove]

/-- `CLAMP_E` is the clamp to `[0, RGBE_MAX]`, and a zero left by it becomes +0.0 (R107). -/
theorem clampRgbe_eq (v : Word) : clampRgbe v =
    (if F64.isZero (clampTo F64.posZero rgbeMax v).1 then F64.posZero else (clampTo F64.posZero rgbeMax v).1,
      (clampTo F64.posZero rgbeMax v).2) := by
  by_cases hnan : F64.isNaN v = true
  · rw [clampTo_of_isNaN hnan, clampRgbe, if_pos hnan]; rfl
  by_cases hbelow : F64.lt v F64.posZero = true
  · rw [clampTo_below (by decide) hbelow, clampRgbe, if_neg hnan, if_pos hbelow]; rfl
  by_cases habove : F64.lt rgbeMax v = true
  · rw [clampTo_above habove, clampRgbe, if_neg hnan, if_neg hbelow, if_pos habove]; rfl
  · rw [clampTo, clampRgbe]
    simp only [hnan, hbelow, habove, Bool.false_eq_true, if_false]
    split <;> rfl

/-! ### The per-channel quantizers as the clamp and one conversion -/

theorem qF32_eq (v : Word) : qF32 v =
    ⟨bytesLE 4 (rnd32 (clampTo 0xC7EFFFFFE0000000 0x47EFFFFFE0000000 v).1).toNat,
      (clampTo 0xC7EFFFFFE0000000 0x47EFFFFFE0000000 v).2⟩ := by
  have hneg : F64.neg fltMax = 0xC7EFFFFFE0000000 := by decide
  rw [qF32, clampFloat_eq, hneg]
  rfl

theorem qF16_eq (v : Word) : qF16 v =
    ⟨bytesLE 2 (rnd16 (clampTo 0xC0EFFC0000000000 0x40EFFC0000000000 v).1).toNat,
      (clampTo 0xC0EFFC0000000000 0x40EFFC0000000000 v).2⟩ := by
  have hneg : F64.neg halfMax = 0xC0EFFC0000000000 := by decide
  rw [qF16, clampFloat_eq, hneg]
  rfl

theorem qFx8_eq (v : Word) : qFx8 v =
    ⟨[BitVec.ofNat 8 (roundHalfUp (F64.mul (clampTo 0x0000000000000000 0x3FF0000000000000 v).1 two55))],
      (clampTo 0x0000000000000000 0x3FF0000000000000 v).2⟩ := by
  rw [qFx8, clampUnit_eq]
  rfl

end Sys2Proof.Machine
end

section
/-! PROOF. The two float kinds: their clamps, events and bytes, FloatQuantizersClamp, and that no output is an infinity
or a NaN, FloatOutputsAreFinite. -/

namespace Sys2Proof.Machine

/-- Within binary32's finite range, `rnd32` is a finite pattern (R104). -/
theorem rnd32_finite {v : Word} (h : F64.le 0xC7EFFFFFE0000000 v = true) (h' : F64.le v 0x47EFFFFFE0000000 = true) :
    (rnd32 v).toNat % 2 ^ 31 < 0x7F800000 := by
  obtain ⟨hmag, -⟩ := rnd32_rounds h h'
  have hle := roundMag_narrow_le (frac := 23) (scale := unitExp - unitExp32) (top := 0x47EFFFFFE0000000)
    (m := 0x7F7FFFFF) (by decide) (by decide) (by decide) (by decide +kernel) h h'
  omega

/-- Within binary16's finite range, `rnd16` is a finite pattern (R105). -/
theorem rnd16_finite {v : Word} (h : F64.le 0xC0EFFC0000000000 v = true) (h' : F64.le v 0x40EFFC0000000000 = true) :
    (rnd16 v).toNat % 2 ^ 15 < 0x7C00 := by
  obtain ⟨hmag, -⟩ := rnd16_rounds h h'
  have hle := roundMag_narrow_le (frac := 10) (scale := unitExp - unitExp16) (top := 0x40EFFC0000000000)
    (m := 0x7BFF) (by decide) (by decide) (by decide) (by decide +kernel) h h'
  omega

/-- The exponent field of a float32 encoding is not all ones (R123). -/
theorem qF32_finite (v : Word) : ofBytesLE (qF32 v).bytes / 2 ^ 23 % 2 ^ 8 ≠ 0xFF := by
  obtain ⟨hlow, hhigh⟩ :=
    clampTo_range (lo := 0xC7EFFFFFE0000000) (hi := 0x47EFFFFFE0000000) (by decide) (by decide) v
  have hfinite := rnd32_finite hlow hhigh
  rw [qF32_eq, ofBytesLE_bytesLE]
  omega

/-- The exponent field of a float16 encoding is not all ones (R123). -/
theorem qF16_finite (v : Word) : ofBytesLE (qF16 v).bytes / 2 ^ 10 % 2 ^ 5 ≠ 0x1F := by
  obtain ⟨hlow, hhigh⟩ :=
    clampTo_range (lo := 0xC0EFFC0000000000) (hi := 0x40EFFC0000000000) (by decide) (by decide) v
  have hfinite := rnd16_finite hlow hhigh
  rw [qF16_eq, ofBytesLE_bytesLE]
  omega

theorem channels_le_four (f : DataFormat) : f.channels ≤ 4 := by cases f <;> decide

end Sys2Proof.Machine

open Sys2Proof Sys2Proof.Machine

/-- Settles O29: each class of values takes its branch of the clamp, and the two limits have the bytes named. -/
theorem floatQuantizersClamp : Obligations.FloatQuantizersClamp := by
  refine ⟨fun n v k hk => bytesLE_getElem? hk, fun v => ⟨fun h => ⟨?_, ?_⟩, fun h => ?_, fun h => ?_,
    fun h h' => ?_, fun h => ?_, fun h => ?_, fun h h' => ?_⟩⟩
  · rw [qF32_eq, clampTo_of_isNaN h]; decide +kernel
  · rw [qF16_eq, clampTo_of_isNaN h]; decide +kernel
  · rw [qF32_eq, clampTo_above h]; decide +kernel
  · rw [qF32_eq, clampTo_below (by decide) h]; decide +kernel
  · rw [qF32_eq, clampTo_within h h']
  · rw [qF16_eq, clampTo_above h]; decide +kernel
  · rw [qF16_eq, clampTo_below (by decide) h]; decide +kernel
  · rw [qF16_eq, clampTo_within h h']

/-- Settles O30: a channel is its quantizer's bytes, and the clamp leaves no value that narrows to an infinity. -/
theorem floatOutputsAreFinite : Obligations.FloatOutputsAreFinite := by
  intro f t c hc
  obtain ⟨j, rfl⟩ : ∃ j : Fin 4, j.val = c := ⟨⟨c, Nat.lt_of_lt_of_le hc (channels_le_four f)⟩, rfl⟩
  have hchannel (q : Word → Encoded) (hq : ChannelQuantizer f.kind q) := pe_channel hq t hc
  refine ⟨fun hf => ?_, fun hf => ?_⟩ <;> rw [DataFormat.byteWidth, hf] at hchannel
  · rw [Nat.mul_comm, hchannel _ .float32]
    exact qF32_finite _
  · rw [Nat.mul_comm, hchannel _ .float16]
    exact qF16_finite _

end

section
/-! SUPPORT. Fixed8: the rounding of a half up, and the product with 255 on [0, 1] (R106). -/

namespace Sys2Proof.Machine

theorem roundHalfUp_eq (t : Word) : roundHalfUp t = (2 * F64.units t + 2 ^ unitExp) / (2 * 2 ^ unitExp) := by
  rw [roundHalfUp, pow_succ' 2 unitExp]

/-- `roundHalfUp` is the floor of one half more than the value. -/
theorem roundHalfUp_floor (t : Word) : 2 * roundHalfUp t * 2 ^ unitExp ≤ 2 * F64.units t + 2 ^ unitExp ∧
    2 * F64.units t + 2 ^ unitExp < 2 * (roundHalfUp t + 1) * 2 ^ unitExp := by
  have hpos := Nat.two_pow_pos unitExp
  rw [roundHalfUp_eq]
  generalize 2 ^ unitExp = d at *
  have hgrid : ∀ n : Nat, 2 * n * d = n * (2 * d) := fun n => by ring
  rw [hgrid, hgrid]
  exact ⟨Nat.div_mul_le_self _ _, Nat.lt_mul_of_div_lt (Nat.lt_succ_self _) (by omega)⟩

theorem roundHalfUp_le {t : Word} {n : Nat} (h : F64.units t ≤ n * 2 ^ unitExp) : roundHalfUp t ≤ n := by
  have hpos := Nat.two_pow_pos unitExp
  rw [roundHalfUp_eq]
  generalize 2 ^ unitExp = d at *
  rw [← Nat.lt_succ_iff, Nat.div_lt_iff_lt_mul (by omega), Nat.succ_mul n, Nat.mul_left_comm]
  omega

theorem units_one : F64.units F64.one = 2 ^ unitExp := by decide +kernel

theorem units_two55 : F64.units two55 = 255 * 2 ^ unitExp := by decide +kernel

/-- A product with a value of magnitude at most 1 has at most the other factor's magnitude. -/
theorem F64.units_mul_le {a b : Word} (ha : isFinite a = true) (hb : isFinite b = true)
    (h : units a ≤ 2 ^ unitExp) : units (mul a b) ≤ units b := by
  have hround : roundMag 52 (units a * units b) (2 ^ unitExp) ≤ mag b :=
    roundMag_le (by decide) (Nat.two_pow_pos _) (Nat.mul_le_mul_right (units b) h)
  rw [mul_of_isFinite ha hb, units, mag_round]
  exact (unitsOf_strictMono 52).monotone (Nat.le_trans (Nat.min_le_left _ _) hround)

/-- On [0, 1] the product with 255 is at most 255. -/
theorem units_mul_two55_le {v : Word} (h : F64.le F64.posZero v = true) (h' : F64.le v F64.one = true) :
    F64.units (F64.mul v two55) ≤ 255 * 2 ^ unitExp := by
  have hfinite : F64.isFinite v = true :=
    decide_eq_true (Nat.lt_of_le_of_lt (F64.mag_le_of_posZero_le h h') (by decide))
  have hunits := F64.units_le_of_posZero_le h h'
  rw [units_one] at hunits
  rw [← units_two55]
  exact F64.units_mul_le hfinite (by decide) hunits

theorem units_mul_of_isZero {a b : Word} (ha : F64.isZero a = true) (hb : F64.isFinite b = true) :
    F64.units (F64.mul a b) = 0 := by
  refine F64.units_of_isZero ?_
  rw [F64.mul_of_isFinite (F64.isFinite_of_isZero ha) hb, F64.units_of_isZero ha, Nat.zero_mul, F64.round_zero,
    F64.isZero_ofSignMag_zero]

/-- A zero of either sign is encoded as 0. -/
theorem qFx8_of_isZero {v : Word} (h : F64.isZero v = true) : qFx8 v = ⟨[0x00], 0⟩ := by
  have hzero : roundHalfUp (F64.mul v two55) = 0 :=
    Nat.le_zero.1 (roundHalfUp_le (by rw [units_mul_of_isZero h (by decide)]; exact Nat.zero_le _))
  have hkept : clampTo 0x0000000000000000 0x3FF0000000000000 v = (v, 0) :=
    clampTo_within (F64.posZero_le_of_isZero h) (F64.le_of_isZero h (by decide))
  rw [qFx8_eq, hkept, hzero]
  rfl

end Sys2Proof.Machine
end

section
/-! SUPPORT. RGBE: the clamped channels, their peak, the shared exponent and the mantissas (R107 to R109). -/

namespace Sys2Proof.Machine

/-! ### A clamped channel -/

theorem clampRgbe_within {c : Word} (h : F64.lt F64.posZero c = true) (h' : F64.le c rgbeMax = true) :
    (clampRgbe c).1 = c := by
  have hzero : F64.isZero c = false := by
    obtain ⟨-, -, hkey⟩ := F64.lt_iff.1 h
    refine Bool.eq_false_iff.2 fun hz => ?_
    rw [F64.key_of_isZero hz, F64.key_posZero] at hkey
    exact absurd hkey (by decide)
  rw [clampRgbe_eq, clampTo_within (F64.le_of_lt h) h', hzero, if_neg Bool.false_ne_true]

theorem clampRgbe_above {c : Word} (h : F64.lt rgbeMax c = true) : (clampRgbe c).1 = rgbeMax := by
  rw [clampRgbe_eq, clampTo_above h]
  decide

theorem clampRgbe_of_isZero {c : Word} (h : F64.isZero c = true) : (clampRgbe c).1 = F64.posZero := by
  rw [clampRgbe_eq, clampTo_within (F64.posZero_le_of_isZero h) (F64.le_of_isZero h (by decide)), if_pos h]

theorem clampRgbe_zero {c : Word}
    (h : F64.isNaN c = true ∨ F64.lt c F64.posZero = true ∨ F64.eq c F64.posZero = true) : (clampRgbe c).1 = F64.posZero := by
  rcases h with h | h | h
  · rw [clampRgbe_eq, clampTo_of_isNaN h]; decide
  · rw [clampRgbe_eq, clampTo_below (by decide) h]; decide
  · exact clampRgbe_of_isZero (F64.isZero_of_eq_posZero h)

/-- A clamped channel: no NaN, its sign bit clear, and at most RGBE_MAX. -/
structure RgbeChannel (v : Word) : Prop where
  notNaN : F64.isNaN v = false
  sign : F64.sign v = false
  le : F64.units v ≤ F64.units rgbeMax

theorem clampRgbe_channel (c : Word) : RgbeChannel (clampRgbe c).1 := by
  obtain ⟨hlow, hhigh⟩ := clampTo_range (lo := F64.posZero) (hi := rgbeMax) (by decide) (by decide) c
  rw [clampRgbe_eq]
  dsimp only
  split_ifs with hzero
  · exact ⟨by decide, by decide, by decide +kernel⟩
  · rw [Bool.not_eq_true] at hzero
    exact ⟨F64.not_isNaN_of_le hlow, F64.sign_of_posZero_le hlow hzero, F64.units_le_of_posZero_le hlow hhigh⟩

section

variable {a b : Word}

theorem RgbeChannel.larger (ha : RgbeChannel a) (hb : RgbeChannel b) : RgbeChannel (F64.max a b) := by
  unfold F64.max
  split
  · exact hb
  · exact ha

/-- The larger of two clamped channels has the larger number of units. -/
theorem RgbeChannel.units_larger (ha : RgbeChannel a) (hb : RgbeChannel b) :
    F64.units (F64.max a b) = max (F64.units a) (F64.units b) := by
  have hlt : F64.lt a b = decide (F64.mag a < F64.mag b) := by
    simp [F64.lt, F64.key, ha.notNaN, ha.sign, hb.notNaN, hb.sign]
  have hmono := (unitsOf_strictMono 52).monotone
  rw [F64.max, hlt]
  rcases Nat.lt_or_ge (F64.mag a) (F64.mag b) with h | h
  · rw [if_pos (decide_eq_true h)]
    exact (Nat.max_eq_right (hmono (Nat.le_of_lt h))).symm
  · rw [if_neg (by simpa using h)]
    exact (Nat.max_eq_left (hmono h)).symm

end

/-! ### The shared exponent -/

/-- The largest of the three clamped channels (R108). -/
def rgbePeak (c0 c1 c2 : Word) : Word := F64.max (F64.max (clampRgbe c0).1 (clampRgbe c1).1) (clampRgbe c2).1

theorem rgbePeak_channel (c0 c1 c2 : Word) : RgbeChannel (rgbePeak c0 c1 c2) :=
  ((clampRgbe_channel c0).larger (clampRgbe_channel c1)).larger (clampRgbe_channel c2)

theorem units_rgbePeak (c0 c1 c2 : Word) : F64.units (rgbePeak c0 c1 c2) =
    max (max (F64.units (clampRgbe c0).1) (F64.units (clampRgbe c1).1)) (F64.units (clampRgbe c2).1) := by
  have h01 := (clampRgbe_channel c0).larger (clampRgbe_channel c1)
  rw [rgbePeak, h01.units_larger (clampRgbe_channel c2), (clampRgbe_channel c0).units_larger (clampRgbe_channel c1)]

theorem log2_lt_iff {u k : Nat} (hk : 0 < k) : Nat.log2 u < k ↔ u < 2 ^ k := by
  rcases Nat.eq_zero_or_pos u with rfl | hpos
  · simpa using hk
  · exact Nat.log2_lt hpos.ne'

/-- An RGBE pixel is zero where its peak is below 2^-128, a zero peak included. -/
theorem rgbe_underflow_iff (v : Word) :
    (F64.isZero v || decide (sharedExponent v < -127)) = true ↔ F64.units v < 2 ^ 946 := by
  have hexp : sharedExponent v < -127 ↔ Nat.log2 (F64.units v) < 946 := by
    unfold sharedExponent unitExp
    omega
  rw [Bool.or_eq_true, decide_eq_true_eq, hexp, log2_lt_iff (by decide), or_iff_right_iff_imp]
  intro hzero
  rw [F64.units_of_isZero hzero]
  exact pow_pos two_pos 946

theorem qRgbe_bytes_underflow {c0 c1 c2 : Word} (h : F64.units (rgbePeak c0 c1 c2) < 2 ^ 946) :
    (qRgbe c0 c1 c2).bytes = [0x00, 0x00, 0x00, 0x00] :=
  congrArg Encoded.bytes (if_pos ((rgbe_underflow_iff _).2 h))

theorem qRgbe_bytes_encoded {c0 c1 c2 : Word} (h : ¬F64.units (rgbePeak c0 c1 c2) < 2 ^ 946) :
    (qRgbe c0 c1 c2).bytes =
      [BitVec.ofNat 8 (rgbeMantissa (sharedExponent (rgbePeak c0 c1 c2)) (clampRgbe c0).1),
        BitVec.ofNat 8 (rgbeMantissa (sharedExponent (rgbePeak c0 c1 c2)) (clampRgbe c1).1),
        BitVec.ofNat 8 (rgbeMantissa (sharedExponent (rgbePeak c0 c1 c2)) (clampRgbe c2).1),
        BitVec.ofNat 8 (sharedExponent (rgbePeak c0 c1 c2) + 128).toNat] :=
  congrArg Encoded.bytes (if_neg (mt (rgbe_underflow_iff _).1 h))

theorem units_rgbeMax_lt : F64.units rgbeMax < 2 ^ 1201 := by decide +kernel

/-- The exponent byte is in 1 to 255, and stands for the binade of the peak. -/
theorem exponentByte_range {v : Word} (hv : RgbeChannel v) (h : 2 ^ 946 ≤ F64.units v) :
    1 ≤ (sharedExponent v + 128).toNat ∧ (sharedExponent v + 128).toNat ≤ 255 ∧
      (sharedExponent v + 128).toNat + 946 = Nat.log2 (F64.units v) + 1 := by
  have hlow : ¬Nat.log2 (F64.units v) < 946 := mt (log2_lt_iff (by decide)).1 (Nat.not_lt.2 h)
  have hhigh : Nat.log2 (F64.units v) < 1201 :=
    (log2_lt_iff (by decide)).2 (Nat.lt_of_le_of_lt hv.le units_rgbeMax_lt)
  unfold sharedExponent unitExp
  omega

/-! ### The mantissas -/

/-- `floor (u × 2^8 / 2^k)`, the mantissa of `u` units whose peak lies below `2^k` units. -/
def truncatedMantissa (k u : Nat) : Nat := u * 2 ^ 8 / 2 ^ k

theorem rgbeMantissa_eq (v c : Word) : rgbeMantissa (sharedExponent v) c =
    truncatedMantissa (Nat.log2 (F64.units v) + 1) (F64.units c) := by
  rw [rgbeMantissa, sharedExponent, Int.sub_add_cancel]
  rfl

theorem truncatedMantissa_floor (k u : Nat) :
    truncatedMantissa k u * 2 ^ k ≤ u * 2 ^ 8 ∧ u * 2 ^ 8 < (truncatedMantissa k u + 1) * 2 ^ k :=
  ⟨Nat.div_mul_le_self _ _, Nat.lt_mul_of_div_lt (Nat.lt_succ_self _) (Nat.two_pow_pos k)⟩

theorem truncatedMantissa_mono (k : Nat) : Monotone (truncatedMantissa k) :=
  fun _ _ h => Nat.div_le_div_right (Nat.mul_le_mul_right _ h)

/-- The peak's own mantissa has its top bit set and fits a byte. -/
theorem truncatedMantissa_peak {u : Nat} (h : u ≠ 0) :
    128 ≤ truncatedMantissa (Nat.log2 u + 1) u ∧ truncatedMantissa (Nat.log2 u + 1) u ≤ 255 := by
  have hlow := Nat.log2_self_le h
  have hhigh := Nat.lt_log2_self (n := u)
  have hpos := Nat.two_pow_pos (Nat.log2 u + 1)
  unfold truncatedMantissa
  constructor
  · rw [Nat.le_div_iff_mul_le hpos, Nat.pow_succ]
    omega
  · rw [← Nat.lt_succ_iff, Nat.div_lt_iff_lt_mul hpos]
    omega

end Sys2Proof.Machine
end

section
/-! PROOF. Fixed8 and RGBE: ClampingBoundaryLaw, FixedPointRoundsHalfUp, SharedExponentEncoding. -/

open Sys2Proof Sys2Proof.Machine

/-- Settles O32: on [0, 1] nothing is clamped, and the product with 255 rounds to at most 255. -/
theorem fixedPointRoundsHalfUp : Obligations.FixedPointRoundsHalfUp := by
  refine ⟨fun v h => ?_, fun v h h' => ?_⟩
  · rw [qFx8_eq, clampTo_of_isNaN h]; decide +kernel
  · have hfloor := roundHalfUp_floor (F64.mul v two55)
    have hle := roundHalfUp_le (units_mul_two55_le h h')
    unfold unitExp at hfloor
    refine ⟨_, hle, ?_, hfloor⟩
    rw [qFx8_eq, clampTo_within h h']

/-- Settles O33: the peak's binade is the shared exponent, and each mantissa is a floor in that binade's grid. -/
theorem sharedExponentEncoding : Obligations.SharedExponentEncoding := by
  refine ⟨fun c => ⟨clampRgbe_zero, clampRgbe_above, clampRgbe_within⟩, ?_⟩
  rintro c0 c1 c2 u0 u1 u2 rfl rfl rfl
  have hpeak := units_rgbePeak c0 c1 c2
  refine ⟨fun h => qRgbe_bytes_underflow (by rwa [hpeak]), fun h => ?_⟩
  rw [← hpeak] at h
  obtain ⟨hlow, hhigh, hbinade⟩ := exponentByte_range (rgbePeak_channel c0 c1 c2) h
  have hne : F64.units (rgbePeak c0 c1 c2) ≠ 0 := (Nat.lt_of_lt_of_le (pow_pos two_pos 946) h).ne'
  obtain ⟨htop, hbyte⟩ := truncatedMantissa_peak hne
  have hfloor := truncatedMantissa_floor (Nat.log2 (F64.units (rgbePeak c0 c1 c2)) + 1)
  have hmono := truncatedMantissa_mono (Nat.log2 (F64.units (rgbePeak c0 c1 c2)) + 1)
  rw [congrArg (truncatedMantissa _) hpeak, hmono.map_max, hmono.map_max] at htop hbyte
  refine ⟨_, _, _, _, qRgbe_bytes_encoded (Nat.not_lt.2 h), hlow, hhigh, ?_⟩
  rw [hbinade]
  simp only [rgbeMantissa_eq]
  exact ⟨htop, hbyte, (hfloor _).1, (hfloor _).2, (hfloor _).1, (hfloor _).2, (hfloor _).1, (hfloor _).2⟩

/-- Settles O31: the two ends of [0, 1] and the clamp to them; a pixel whose three channels are zeros underflows. -/
theorem clampingBoundaryLaw : Obligations.ClampingBoundaryLaw := by
  intro f t hf
  have hpe : pe f t = qFx8 t.r := by rcases hf with rfl | rfl <;> rfl
  rw [hpe]
  refine ⟨fun h => ?_, fun h => ?_, fun h => ?_, fun h => ?_, fun hr hg hb => ?_⟩
  · rw [qFx8_of_isZero (F64.isZero_of_eq_posZero h)]
  · rw [h]; decide +kernel
  · rw [qFx8_eq, clampTo_above h]; decide +kernel
  · rw [qFx8_eq, clampTo_below (by decide) h]; decide +kernel
  · refine qRgbe_bytes_underflow ?_
    rw [units_rgbePeak, clampRgbe_zero (.inr (.inr hr)), clampRgbe_zero (.inr (.inr hg)),
      clampRgbe_zero (.inr (.inr hb))]
    decide +kernel

end

section
/-! PROOF. The clamp events of a pixel: ClampEventsCountReplacedChannels. -/

namespace Sys2Proof.Machine

/-- The clamp events of a pixel of a per-channel format are the sum of its channels' (R120). -/
theorem pe_events {f : DataFormat} {q : Word → Encoded} (hq : ChannelQuantizer f.kind q) (t : Sample) :
    (pe f t).events = (([t.r, t.g, t.b, t.a].take f.channels).map fun v => (q v).events).sum := by
  cases f <;> cases hq <;> simp [pe, DataFormat.channels, Nat.add_assoc]

theorem sum_map_toNat_eq_countP {α : Type} (p : α → Bool) (l : List α) :
    (l.map fun v => (p v).toNat).sum = l.countP p := by
  induction l with
  | nil => rfl
  | cons v l ih => cases h : p v <;> simp [h, ih, Nat.add_comm]

/-- Where a channel's event is a test of its value, the events of a pixel are the channels that meet the test. -/
theorem pe_events_eq_countP {f : DataFormat} {q : Word → Encoded} {p : Word → Bool} (hq : ChannelQuantizer f.kind q)
    (hp : ∀ v, (q v).events = (p v).toNat) (t : Sample) :
    (pe f t).events = ([t.r, t.g, t.b, t.a].take f.channels).countP p := by
  rw [pe_events hq, funext hp, sum_map_toNat_eq_countP]

theorem clampRgbe_events (c : Word) :
    (clampRgbe c).2 = (F64.isNaN c || F64.lt c F64.posZero || F64.lt rgbeMax c).toNat := by
  rw [clampRgbe_eq, Bool.or_right_comm]
  exact clampTo_events _ _ c

theorem qRgbe_events (c0 c1 c2 : Word) :
    (qRgbe c0 c1 c2).events = ([c0, c1, c2].map fun c => (clampRgbe c).2).sum := by
  simp only [qRgbe, List.map, List.sum_cons, List.sum_nil, Nat.add_zero, ← Nat.add_assoc]
  split <;> rfl

theorem channels_of_fixed8 {f : DataFormat} (hf : f.kind = .fixed8) : f.channels = 1 := by
  cases f with
  | r8 => rfl
  | packedR8 => rfl
  | _ => cases hf

end Sys2Proof.Machine

open Sys2Proof Sys2Proof.Machine

/-- Settles O34: every kind's clamp counts one event for a NaN or a value outside its range. -/
theorem clampEventsCountReplacedChannels : Obligations.ClampEventsCountReplacedChannels := by
  refine fun f t => ⟨fun hf => ?_, fun hf => ?_, fun hf => ?_, fun hf => ?_⟩
  · refine pe_events_eq_countP (by rw [hf]; exact .float32) (fun v => ?_) t
    rw [qF32_eq, clampTo_events]
  · refine pe_events_eq_countP (by rw [hf]; exact .float16) (fun v => ?_) t
    rw [qF16_eq, clampTo_events]
  · have hcount := pe_events_eq_countP (q := qFx8)
      (p := fun v => F64.isNaN v || F64.lt v 0x0000000000000000 || F64.lt 0x3FF0000000000000 v)
      (by rw [hf]; exact .fixed8) (fun v => by rw [qFx8_eq, clampTo_events, Bool.or_right_comm]) t
    rw [channels_of_fixed8 hf] at hcount
    exact hcount
  · rw [pe_rgbe hf, qRgbe_events, funext clampRgbe_events, sum_map_toNat_eq_countP]
    rfl

end

section
/-! PROOF. The checks of the conversions and the padding of a row: ConversionReportsFirstFailingCheck, PaddingLaws. -/

namespace Sys2Proof.Machine

theorem except_bind_error {ε α β : Type} {x : Except ε α} {f : α → Except ε β} {e : ε} :
    (x >>= f) = .error e ↔ x = .error e ∨ ∃ a, x = .ok a ∧ f a = .error e := by
  cases x <;> simp [bind, Except.bind]

/-- A conversion's checks fail with the first that fails: FORMAT, the pair, the dimensions, the capacities (R153). -/
theorem job_eq_error {s : State} {e : Stop} : s.job = .error e ↔ s.format = .error e ∨ ∃ f, s.format = .ok f ∧
    (s.pair = .error e ∨ ∃ p, s.pair = .ok p ∧
      (s.checkDims = .error e ∨ s.checkDims = .ok () ∧ s.checkCapacity f = .error e)) := by
  simp [State.job, except_bind_error, pure, Except.pure, Unique.exists_iff]

theorem checkCapacity_inCapacity {s : State} (f : DataFormat)
    (h : s.inst.inCapacity < s.width.toNat * s.height.toNat) :
    s.checkCapacity f = .error (.raise .inCapacity) :=
  if_pos h

theorem checkCapacity_outCapacity {s : State} {f : DataFormat}
    (hin : s.width.toNat * s.height.toNat ≤ s.inst.inCapacity)
    (hout : s.inst.outCapacity < f.imageSize s.cfg.hdrEn s.width.toNat s.height.toNat) :
    s.checkCapacity f = .error (.raise .outCapacity) :=
  (if_neg (Nat.not_lt.2 hin)).trans (if_pos hout)

theorem checkRow_rowRange {s : State} (h : s.height.toNat ≤ s.row.toNat) :
    s.checkRow = .error (.raise .rowRange) :=
  if_pos h

/-- Both conversions begin with the checks they share, and report the one that fails (R155). -/
theorem exec_of_job_raise {s : State} {i : Instr} {c : ErrorCode} (hi : i = .convert ∨ i = .packRow)
    (hjob : s.job = .error (.raise c)) : exec i s = .next (s.fail c) := by
  obtain rfl | rfl := hi
  · exact complete_bind_raise _ hjob
  · exact complete_bind_raise _ hjob

end Sys2Proof.Machine

open Sys2Proof Sys2Proof.Machine

/-- Settles O8: each shared check fails where those before it pass; PACK_ROW checks ROW after all of them. -/
theorem conversionReportsFirstFailingCheck : Obligations.ConversionReportsFirstFailingCheck := by
  intro s i hi
  have hraise {c : ErrorCode} (h : s.job = .error (.raise c)) := exec_of_job_raise hi h
  refine ⟨fun hformat => hraise (job_eq_error.2 (.inl (format_badFormat hformat))), fun f hf => ?_⟩
  have hpairFails {c : ErrorCode} (h : s.pair = .error (.raise c)) : exec i s = .next (s.fail c) :=
    hraise (job_eq_error.2 (.inr ⟨f, format_eq_ok.2 hf, .inl h⟩))
  refine ⟨fun hspace => hpairFails (pair_badColorspace hspace), fun hsrc hdst =>
    ⟨fun hmix => hpairFails (pair_csMismatch hsrc hdst hmix), fun hmix => ?_⟩⟩
  obtain ⟨src, dst, hs, hd, hiff⟩ := exists_spaces hsrc hdst
  obtain ⟨p, hp⟩ := Option.ne_none_iff_exists'.1 (hiff.1 hmix)
  have hpair : s.pair = .ok p := pair_eq_ok.2 ⟨src, dst, hs, hd, hp⟩
  have hsizeFails {c : ErrorCode}
      (h : s.checkDims = .error (.raise c) ∨ s.checkDims = .ok () ∧ s.checkCapacity f = .error (.raise c)) :
      exec i s = .next (s.fail c) :=
    hraise (job_eq_error.2 (.inr ⟨f, format_eq_ok.2 hf, .inr ⟨p, hpair, h⟩⟩))
  refine ⟨fun hdims => hsizeFails (.inl (checkDims_zeroDim hdims)), fun hwidth hheight => ?_⟩
  have hwidth := BitVec.toNat_ne.1 hwidth
  have hheight := BitVec.toNat_ne.1 hheight
  have hdims : s.checkDims = .ok () := checkDims_eq_ok.2 ⟨hwidth, hheight⟩
  refine ⟨fun hin => hsizeFails (.inr ⟨hdims, checkCapacity_inCapacity f hin⟩), fun hin =>
    ⟨fun hout => hsizeFails (.inr ⟨hdims, checkCapacity_outCapacity hin hout⟩), ?_⟩⟩
  rintro hout rfl hrow
  have hjob : s.job = .ok ⟨f, p⟩ := job_eq_ok.2 ⟨hf, hpair, hwidth, hheight, hin, hout⟩
  exact (complete_bind_ok _ hjob).trans (complete_bind_raise _ (checkRow_rowRange hrow))

/-- Settles O37: a stride that is not packed is a multiple of 4, and a packed one is its pixels. -/
theorem paddingLaws : Obligations.PaddingLaws := fun f w =>
  ⟨fun hp _ => by rw [stride_of_not_packed f.bpp w rfl hp, Nat.mul_mod_right],
    fun hp => stride_of_packed f.bpp w rfl hp⟩

end

section
/-! PROOF. An image packed row by row: RowsPackedInAnyOrderEqualConvert. -/

namespace Sys2Proof.Machine

/-! ### States that hold the same image -/

/-- What a conversion reads, its row aside, is the same in `u` as in `s`. -/
structure State.SameImage (s u : State) : Prop where
  inst : u.inst = s.inst
  cfg : u.cfg = s.cfg
  width : u.width = s.width
  height : u.height = s.height
  inMem : u.inMem = s.inMem

namespace State.SameImage

variable {s u : State}

theorem refl (s : State) : s.SameImage s := ⟨rfl, rfl, rfl, rfl, rfl⟩

/-- A conversion does not write what it reads. -/
theorem completion {i : Instr} {v : State} (h : s.SameImage u) (hc : Completion u i v) : s.SameImage v := by
  obtain ⟨hinst, hcfg, hwidth, hheight, _, _, _, hin, _⟩ := hc.frame
  exact ⟨hinst.trans h.inst, hcfg.trans h.cfg, hwidth.trans h.width, hheight.trans h.height, hin.trans h.inMem⟩

theorem setRow (h : s.SameImage u) (y : BitVec 32) : s.SameImage { u with row := y } :=
  ⟨h.inst, h.cfg, h.width, h.height, h.inMem⟩

theorem convertible {j : Job} (h : s.SameImage u) (hs : s.Convertible j) : u.Convertible j where
  fmt := by rw [h.cfg]; exact hs.fmt
  pair := by rw [h.cfg]; exact hs.pair
  width := by rw [h.width]; exact hs.width
  height := by rw [h.height]; exact hs.height
  input := by rw [h.inst, h.width, h.height]; exact hs.input
  output := by rw [h.inst, h.cfg, h.width, h.height]; exact hs.output

theorem readSample (h : s.SameImage u) (i : Nat) : u.readSample i = s.readSample i := by
  simp only [State.readSample, State.readLane, h.inst, h.inMem]

theorem encodePixels (h : s.SameImage u) (j : Job) (n i : Nat) : u.encodePixels j n i = s.encodePixels j n i := by
  induction n generalizing i with
  | zero => rfl
  | succ n ih => simp only [State.encodePixels, State.encodePixelAt, h.readSample, h.inst, ih]

theorem rowB (h : s.SameImage u) (j : Job) (y : Nat) : u.rowB j y = s.rowB j y := by
  simp only [State.rowB, State.widthNat, h.width, h.encodePixels]

theorem rowAddr (h : s.SameImage u) (j : Job) (y : Nat) : u.rowAddr j y = s.rowAddr j y := by
  simp only [State.rowAddr, State.widthNat, h.width, h.cfg]

end State.SameImage

/-! ### OUT while the rows are packed -/

/-- The address lies in row `y` of the image (R129). -/
def State.InRow (s : State) (j : Job) (y a : Nat) : Prop :=
  s.rowAddr j y ≤ a ∧ a < s.rowAddr j y + j.fmt.stride s.widthNat

/-- Every row of the image encodes, and `m` holds it at its place. -/
def State.ImageIn (s : State) (j : Job) (m : Memory) : Prop :=
  ∀ y, y < s.heightNat → ∃ q, s.rowB j y = .ok q ∧
    ∀ o, o < j.fmt.stride s.widthNat → m.read (s.rowAddr j y + o) = q.bytes[o]?

/-- Rows lie one after the other, so every address from the first to the last is in one. -/
theorem exists_inRow {s : State} {j : Job} {a : Nat} (hlo : s.rowAddr j 0 ≤ a) (hhi : a < s.rowAddr j s.heightNat) :
    ∃ y, y < s.heightNat ∧ s.InRow j y a := by
  generalize s.heightNat = n at hhi ⊢
  induction n with
  | zero => omega
  | succ n ih =>
    by_cases hn : a < s.rowAddr j n
    · obtain ⟨y, hy, ha⟩ := ih hn
      exact ⟨y, Nat.lt_succ_of_lt hy, ha⟩
    · rw [rowAddr_add, Nat.one_mul] at hhi
      exact ⟨n, Nat.lt_succ_self n, Nat.le_of_not_lt hn, hhi⟩

/-- The rows of an image, once written, are in OUT. -/
theorem convertRows_imageIn {s : State} {j : Job} {m : Memory} {ev : Nat} {r : Memory × Nat}
    (h : s.convertRows j s.heightNat 0 m ev = .ok r) : s.ImageIn j r.1 := by
  intro y hy
  obtain ⟨q, hq⟩ := convertRows_ok_iff.1 ⟨r, h⟩ y hy
  have hread := fun o ho => convertRows_read_row (o := o) h hy hq ho
  rw [Nat.zero_add] at hq hread
  exact ⟨q, hq, hread⟩

/-- A CONVERT that answers a next state, its checks passed, has written every row. -/
theorem exec_convert_eq_next {s t : State} {j : Job} (hjob : s.job = .ok j) (h : exec .convert s = .next t) :
    ∃ r, s.convertRows j s.heightNat 0 (s.headerIfEnabled j).outMem 0 = .ok r ∧ t.outMem = r.1 := by
  cases hrows : s.convertRows j s.heightNat 0 (s.headerIfEnabled j).outMem 0 with
  | ok r =>
    cases (exec_convert hjob hrows).symm.trans h
    exact ⟨r, rfl, rfl⟩
  | error e =>
    obtain rfl := convertRows_error hrows
    rw [show exec .convert s = _ from complete_bind_ok _ hjob, hrows] at h
    cases h

/-- A PACK_ROW of a row moves OUT towards an image `m`: its row reads as in `m`, the rest as before. -/
theorem exec_packRow_imageIn {s u : State} {j : Job} {m : Memory} {y : BitVec 32} (hs : s.Convertible j)
    (himage : s.ImageIn j m) (hu : s.SameImage u) (hy : y.toNat < s.height.toNat) :
    ∃ v, exec .packRow { u with row := y } = .next v ∧ s.SameImage v ∧
      (∀ a, s.InRow j y.toNat a → v.readOut a = m.read a) ∧
      ∀ a, ¬s.InRow j y.toNat a → v.readOut a = u.readOut a := by
  have hrow := hu.setRow y
  obtain ⟨q, hq, hread⟩ := himage y.toNat hy
  have hexec : exec .packRow { u with row := y } = .next
      (({ u with row := y }.writeOut (s.rowAddr j y.toNat) q.bytes).countClamps q.events).finish := by
    rw [← hrow.rowAddr]
    exact exec_packRow (hrow.convertible hs).job_ok (by rw [State.heightNat, hrow.height]; exact hy)
      ((hrow.rowB j y.toNat).trans hq)
  refine ⟨_, hexec, hrow.completion (exec_completion hexec), fun a ⟨hlo, hhi⟩ => ?_, fun a ha => ?_⟩
  · obtain ⟨o, rfl⟩ := Nat.exists_eq_add_of_le hlo
    have ho : o < j.fmt.stride s.widthNat := by omega
    exact (read_writeRow hq ho).trans (hread o ho).symm
  · refine read_writeRow_outside hq ?_
    unfold State.InRow at ha
    omega

/-- PACK_ROWs leave OUT as an image `m` has it wherever it was so before, and in every row packed. -/
theorem packRows_imageIn {s u : State} {j : Job} {m : Memory} {ys : List (BitVec 32)} (hs : s.Convertible j)
    (himage : s.ImageIn j m) (hu : s.SameImage u) (hys : ∀ y ∈ ys, y.toNat < s.height.toNat) :
    ∃ v, packRows ys u = some v ∧
      ∀ a, (u.readOut a = m.read a ∨ ∃ y ∈ ys, s.InRow j y.toNat a) → v.readOut a = m.read a := by
  induction ys generalizing u with
  | nil => exact ⟨u, rfl, fun a ha => ha.resolve_right (by simp)⟩
  | cons y ys ih =>
    obtain ⟨hy, hys⟩ := List.forall_mem_cons.1 hys
    obtain ⟨v, hexec, hv, hin, hout⟩ := exec_packRow_imageIn hs himage hu hy
    obtain ⟨w, hw, hread⟩ := ih hv hys
    refine ⟨w, by rw [packRows, hexec]; exact hw, fun a ha => hread a ?_⟩
    by_cases hrow : s.InRow j y.toNat a
    · exact .inl (hin a hrow)
    · rw [hout a hrow]
      simpa [hrow] using ha

end Sys2Proof.Machine

open Sys2Proof Sys2Proof.Machine

/-- Settles O22: outside the rows CONVERT leaves the header's OUT, and each PACK_ROW puts its row where CONVERT does. -/
theorem rowsPackedInAnyOrderEqualConvert : Obligations.RowsPackedInAnyOrderEqualConvert := by
  intro s s0 t j ys hs hconvert hheader hnone hys hcover
  obtain ⟨r, hrows, hout⟩ := exec_convert_eq_next hs.job_ok hconvert
  have hstart : s.SameImage s0 ∧ s0.outMem = (s.headerIfEnabled j).outMem := by
    unfold State.headerIfEnabled
    cases hen : s.cfg.hdrEn with
    | false =>
      obtain rfl := hnone hen
      exact ⟨.refl s0, rfl⟩
    | true =>
      have hexec := exec_encodeHeader hs.fmt (pair_target (pair_eq_ok.2 hs.pair))
        (checkDims_eq_ok.2 ⟨hs.width, hs.height⟩)
      cases hexec.symm.trans (hheader hen)
      exact ⟨(State.SameImage.refl s).completion (exec_completion hexec), rfl⟩
  obtain ⟨hsame, hout0⟩ := hstart
  obtain ⟨u, hu, hread⟩ := packRows_imageIn hs (convertRows_imageIn hrows) hsame hys
  refine ⟨u, hu, fun a => ?_⟩
  rw [State.readOut, State.readOut, hout]
  refine hread a ?_
  by_cases ha : s.rowAddr j 0 ≤ a ∧ a < s.rowAddr j s.heightNat
  · obtain ⟨n, hn, hrow⟩ := exists_inRow ha.1 ha.2
    obtain ⟨y, hy, rfl⟩ := hcover n hn
    exact .inr ⟨y, hy, hrow⟩
  · left
    rw [State.readOut, hout0, convertRows_read_outside hrows (by rw [Nat.zero_add]; omega)]

end

section
/-! PROOF. CONVERT reads nothing but its configuration and its samples: ConvertIsStateless. -/

namespace Sys2Proof.Machine

/-- What R144 lets the bytes of a CONVERT depend on is the same in `u` as in `s`. -/
structure State.SameConversion (s u : State) : Prop where
  inst : u.inst = s.inst
  format : u.cfg.format = s.cfg.format
  srcCs : u.cfg.srcCs = s.cfg.srcCs
  dstCs : u.cfg.dstCs = s.cfg.dstCs
  hdrEn : u.cfg.hdrEn = s.cfg.hdrEn
  width : u.width = s.width
  height : u.height = s.height
  samples : ∀ i, i < s.widthNat * s.heightNat → u.readSample i = s.readSample i

namespace State.SameConversion

variable {s u : State}

/-! ### What a conversion computes from them -/

theorem widthNat (h : s.SameConversion u) : u.widthNat = s.widthNat := by rw [State.widthNat, State.widthNat, h.width]

theorem heightNat (h : s.SameConversion u) : u.heightNat = s.heightNat := by
  rw [State.heightNat, State.heightNat, h.height]

theorem job (h : s.SameConversion u) : u.job = s.job := by
  simp only [State.job, State.format, State.pair, State.checkDims, State.checkCapacity, h.format, h.srcCs, h.dstCs,
    h.hdrEn, h.inst, h.widthNat, h.heightNat]

theorem rowAddr (h : s.SameConversion u) (j : Job) (y : Nat) : u.rowAddr j y = s.rowAddr j y := by
  simp only [State.rowAddr, h.hdrEn, h.widthNat]

theorem encodePixels (h : s.SameConversion u) (j : Job) {n i : Nat} (hi : i + n ≤ s.widthNat * s.heightNat) :
    u.encodePixels j n i = s.encodePixels j n i := by
  induction n generalizing i with
  | zero => rfl
  | succ n ih =>
    have hrest := ih (i := i + 1) (by omega)
    simp only [State.encodePixels, State.encodePixelAt, h.samples i (by omega), h.inst, hrest]

theorem rowB (h : s.SameConversion u) (j : Job) {y : Nat} (hy : y < s.heightNat) : u.rowB j y = s.rowB j y := by
  have hrow : y * s.widthNat + s.widthNat ≤ s.widthNat * s.heightNat := by
    rw [← Nat.succ_mul, Nat.mul_comm s.widthNat]
    exact Nat.mul_le_mul_right _ hy
  simp only [State.rowB, h.widthNat, h.encodePixels j hrow]

theorem eventsOf (h : s.SameConversion u) (j : Job) :
    u.eventsOf j 0 (s.heightNat * s.widthNat) = s.eventsOf j 0 (s.heightNat * s.widthNat) := by
  refine congrArg List.sum (List.map_congr_left fun k hk => ?_)
  rw [List.mem_range, Nat.mul_comm] at hk
  simp only [State.pixelEvents, Nat.zero_add, h.samples k hk, h.inst]

/-! ### The image written, on any OUT before it -/

variable {j : Job} {m m' : Memory} {ev : Nat} {r r' : Memory × Nat}

/-- The rows that encode in one of the states encode in the other. -/
theorem convertRows_ok (h : s.SameConversion u) (hr : s.convertRows j s.heightNat 0 m ev = .ok r) :
    ∃ r', u.convertRows j u.heightNat 0 m' ev = .ok r' := by
  rw [h.heightNat]
  refine convertRows_ok_iff.2 fun y hy => ?_
  rw [h.rowB j (by rwa [Nat.zero_add])]
  exact convertRows_ok_iff.1 ⟨r, hr⟩ y hy

theorem convertRows_events (h : s.SameConversion u) (hr : s.convertRows j s.heightNat 0 m ev = .ok r)
    (hr' : u.convertRows j u.heightNat 0 m' ev = .ok r') : r'.2 = r.2 := by
  rw [Machine.convertRows_events hr, Machine.convertRows_events hr', h.heightNat, h.widthNat, Nat.zero_mul, h.eventsOf]

theorem headerIfEnabled_read (h : s.SameConversion u) {a : Nat} (ha : a < headerLength s.cfg.hdrEn) :
    (u.headerIfEnabled j).outMem.read a = (s.headerIfEnabled j).outMem.read a := by
  cases hen : s.cfg.hdrEn with
  | false => simp [headerLength, hen] at ha
  | true =>
    have ha : a < 16 := by simpa [headerLength, hen] using ha
    rw [Machine.headerIfEnabled_read hen ha, Machine.headerIfEnabled_read (h.hdrEn.trans hen) ha, h.widthNat,
      h.heightNat]

/-- A byte of the image lies in its header, or in one of its rows; either way both states write the same one. -/
theorem convertRows_read (h : s.SameConversion u)
    (hr : s.convertRows j s.heightNat 0 (s.headerIfEnabled j).outMem ev = .ok r)
    (hr' : u.convertRows j u.heightNat 0 (u.headerIfEnabled j).outMem ev = .ok r') {a : Nat}
    (ha : a < j.fmt.imageSize s.cfg.hdrEn s.widthNat s.heightNat) : r'.1.read a = r.1.read a := by
  by_cases hheader : a < s.rowAddr j 0
  · rw [convertRows_read_outside hr (.inl hheader), convertRows_read_outside hr' (.inl (by rwa [h.rowAddr]))]
    exact h.headerIfEnabled_read (by rwa [← rowAddr_zero s j])
  · obtain ⟨y, hy, hlo, hhi⟩ := exists_inRow (Nat.le_of_not_lt hheader) (by rwa [rowAddr_heightNat])
    obtain ⟨o, rfl⟩ := Nat.exists_eq_add_of_le hlo
    obtain ⟨q, hq, hread⟩ := convertRows_imageIn hr y hy
    obtain ⟨q', hq', hread'⟩ := convertRows_imageIn hr' y (by rwa [h.heightNat])
    rw [h.rowB j hy, hq] at hq'
    cases hq'
    rw [h.rowAddr, h.widthNat] at hread'
    rw [hread o (by omega), hread' o (by omega)]

end State.SameConversion

end Sys2Proof.Machine

open Sys2Proof Sys2Proof.Machine

/-- Settles O23: the same rows encode, each to the same bytes and events, whatever OUT and the count held before. -/
theorem convertIsStateless : Obligations.ConvertIsStateless := by
  intro s s' t j hs hconvert hinst hformat hsrc hdst hhdr hwidth hheight hsamples
  have h : s.SameConversion s' := ⟨hinst, hformat, hsrc, hdst, hhdr, hwidth, hheight, hsamples⟩
  obtain ⟨r, hr, -⟩ := exec_convert_eq_next hs.job_ok hconvert
  obtain ⟨r', hr'⟩ := h.convertRows_ok (m' := (s'.headerIfEnabled j).outMem) hr
  cases (exec_convert hs.job_ok hr).symm.trans hconvert
  refine ⟨_, exec_convert (h.job.trans hs.job_ok) hr', fun a ha => h.convertRows_read hr hr' ha,
    fun hc => ⟨r.2, ?_, ?_⟩, fun hc => ⟨?_, ?_⟩⟩
  · simp [hc, saturatingCount_toNat]
  · simp [hinst, hc, saturatingCount_toNat, h.convertRows_events hr hr']
  · simp [hc]
  · simp [hinst, hc]

end

section
/-! PROOF. A command in execution leaves it: EveryCommandCompletes, NopOnlyCompletes. -/

namespace Sys2Proof.Machine

/-! ### The turns to come -/

theorem writeReg_outside (s : State) (r : Reg) (v : Word) : (s.writeReg r v).outside = s.outside := by
  obtain h | h | h | h | h := writeReg_cases s r v
  case inr.inr.inr.inr => rw [h]; cases r <;> rfl
  all_goals simp [h]

/-- No operation from outside changes whose turns are to come. -/
theorem hostStep_turns {s t : State} {op : HostOp} (h : hostStep op s = .next t) :
    t.outside.turns = s.outside.turns := by
  cases op with
  | write sp a n v =>
    cases hostStep_effect h with
    | writeReg => rw [writeReg_outside]
    | writeIn => rfl
    | writeOut => rfl
  | read sp a n => obtain ⟨v, rfl⟩ := hostRead_effect h; rfl
  | wait => cases h; split <;> rfl
  | reset => cases h; rfl

/-- While BUSY = 1 the engine moves, or the host at a turn of its own (R59). -/
theorem mover_of_busy {s : State} (hb : s.status.busy = true) :
    s.mover = .engine ∨ ∃ op ts, s.mover = .host op ∧ s.outside.turns = .host :: ts := by
  unfold State.mover
  rw [hb]
  split <;> simp_all

/-! ### Outcomes that leave execution -/

/-- The block is no longer in execution of a command, or stopped. -/
def State.OutOfExecution (t : State) : Prop := t.status.busy = false ∨ t.faultMark ≠ none

/-- The outcome ends the execution of a command, or the host's program was refused. -/
def LeavesExecution (o : Host.Outcome State Fault Refusal) : Prop :=
  (∃ t, o = .next t ∧ t.OutOfExecution) ∨ ∃ r, o = .refused r

/-- A settled outcome leaves execution when its next state does: a fault is marked. -/
theorem settle_leavesExecution {s : State} {o : Host.Outcome State Fault Refusal}
    (h : ∀ t, o = .next t → t.OutOfExecution) : LeavesExecution (s.settle o) := by
  cases o with
  | next t => exact .inl ⟨t, rfl, h t rfl⟩
  | fault f => exact .inl ⟨_, rfl, .inr (by simp)⟩
  | refused r => exact .inr ⟨r, rfl⟩

/-- Every completion clears BUSY (R155). -/
theorem Completion.busy {i : Instr} {s t : State} (h : Completion s i t) : t.status.busy = false := by
  cases h <;> rfl

theorem engineStep_busy {s t : State} (h : engineStep s = .next t) : t.status.busy = false := by
  obtain rfl | ⟨i, _, hc⟩ := engineStep_cases h
  · rfl
  · exact hc.busy

/-- A step while a command is in execution leaves it, or was the host's, and used up a turn of the host. -/
theorem step_of_busy {s : State} (hb : s.status.busy = true) (hmark : s.faultMark = none) :
    LeavesExecution (step s) ∨
      ∃ t, step s = .next t ∧ ¬t.OutOfExecution ∧ s.outside.turns = .host :: t.outside.turns := by
  obtain hmover | ⟨op, ts, hmover, hturns⟩ := mover_of_busy hb
  · rw [step_of_mover_engine hmark hmover]
    exact .inl (settle_leavesExecution fun t ht => .inl (engineStep_busy ht))
  · rw [step_of_mover_host hmark hmover]
    by_cases hleaves : ∀ t, hostStep op s.useTurn.takeOp = .next t → t.OutOfExecution
    · exact .inl (settle_leavesExecution hleaves)
    · push Not at hleaves
      obtain ⟨t, ht, hin⟩ := hleaves
      refine .inr ⟨t, by rw [ht, settle_next], hin, ?_⟩
      rw [hostStep_turns ht, hturns]
      simp [hb, hturns]

/-! ### Runs -/

theorem run_succ {s t : State} (n : Nat) (h : step s = .next t) : core.run (n + 1) s = core.run n t := by
  have hstep : core.step s = .next t := h
  simp only [Host.Core.run, hstep]

theorem run_one (s : State) : core.run 1 s = step s := by
  have hstep : core.step s = step s := rfl
  simp only [Host.Core.run, hstep]
  cases step s <;> rfl

/-- The host's turns being finitely many, the engine's comes (R149). -/
theorem exists_run_leavesExecution {s : State} (hb : s.status.busy = true) (hmark : s.faultMark = none) :
    ∃ n, n ≤ s.outside.turns.length + 1 ∧ LeavesExecution (core.run n s) := by
  obtain hleaves | ⟨t, ht, hin, hturns⟩ := step_of_busy hb hmark
  · exact ⟨1, by omega, by rwa [run_one]⟩
  · obtain ⟨hbusy, hnone⟩ := not_or.1 hin
    obtain ⟨n, hn, hleaves⟩ := exists_run_leavesExecution (s := t) (by simpa using hbusy) (not_not.1 hnone)
    exact ⟨n + 1, by simpa [hturns] using hn, by rwa [run_succ n ht]⟩
termination_by s.outside.turns.length
decreasing_by simp [hturns]

end Sys2Proof.Machine

open Sys2Proof Sys2Proof.Machine

/-- Settles O58, by recursion on the turns to come. -/
theorem everyCommandCompletes : Obligations.EveryCommandCompletes :=
  fun _ hb hmark => exists_run_leavesExecution hb hmark

/-- Settles O11: NOP's rule answers the state itself, and IRQ is the level of DONE while it is enabled. -/
theorem nopOnlyCompletes : Obligations.NopOnlyCompletes :=
  ⟨rfl, fun s => ⟨s.finish, rfl, rfl, fun hirq => by simp [State.irq, hirq]⟩⟩

end

section
/-! PROOF. What stops or reports: ErrorReportIsPrecise, CommandWriteIssuesOrOverruns,
BusyMemoryWriteSetsTheFaultMark. -/

namespace Sys2Proof.Machine

/-! ### The command register -/

/-- A command word written while BUSY = 0 is issued (R154). -/
theorem writeReg_cmd_idle {s : State} (w : Word) (hb : s.status.busy = false) : s.writeReg .cmd w = s.issue w := by
  simp [State.writeReg, hb]

/-- A command word written while BUSY = 1 is dropped (R38). -/
theorem writeReg_cmd_busy {s : State} (w : Word) (hb : s.status.busy = true) : s.writeReg .cmd w = s.dropCommand := by
  simp [State.writeReg, hb]

/-- A word with RSV = 0 and a command's opcode decodes to that command (R64, R65). -/
theorem decodeWord_of_opField {w : Word} {i : Instr} (hrsv : rsvField w = 0) (hop : opField w = opcodeOf i) :
    decodeWord w = .ok i :=
  decodeWord_eq_ok.2 (by rw [encode, ← hop, setWidth_opField hrsv])

/-- The opcodes of the map end at 0x05 (R65). -/
theorem opcodeOf_le (i : Instr) : (opcodeOf i).toNat ≤ 0x05 := by cases i <;> decide

/-- A word with a reserved bit set or an unassigned opcode is no command's encoding (R66). -/
theorem curOp_ofWord_illegal {w : Word} (h : rsvField w ≠ 0 ∨ 0x05 < (opField w).toNat) :
    CurOp.ofWord w = .illegal := by
  cases hdecode : decodeWord w with
  | error e => simp [CurOp.ofWord, hdecode]
  | ok i =>
    obtain ⟨_, hop, hrsv, _⟩ := encode_statement i
    rw [decodeWord_eq_ok.1 hdecode, hop] at h
    exact absurd h (not_or.2 ⟨not_not.2 hrsv, Nat.not_lt.2 (opcodeOf_le i)⟩)

/-! ### Writes of a memory in use -/

/-- A legal write of IN while BUSY = 1 is HAZARD_IN (R173). -/
theorem hostStep_write_in_busy {s : State} {a n : Nat} (v : Word) (hb : s.status.busy = true)
    (hlegal : s.accessLegal .input a n = true) : hostStep (.write .input a n v) s = .fault .hazardIn := by
  simp [hostStep, hlegal, State.hostWriteIn, hb]

/-- A legal write of OUT while BUSY = 1 is HAZARD_OUT (R174). -/
theorem hostStep_write_out_busy {s : State} {a n : Nat} (v : Word) (hb : s.status.busy = true)
    (hlegal : s.accessLegal .output a n = true) : hostStep (.write .output a n v) s = .fault .hazardOut := by
  simp [hostStep, hlegal, State.hostWriteOut, hb]

/-- An operation that faults at the host's turn sets the mark, and the next step stops with it unless it is reset
(R160, R168). -/
theorem step_marks_hostFault {s u : State} {op : HostOp} {ops : List HostOp} {turns : List Agent} {f : Fault}
    (hb : s.status.busy = true) (hmark : s.faultMark = none) (hturns : s.outside.turns = .host :: turns)
    (hops : s.outside.ops = op :: ops) (hu : u = { s with outside := { s.outside with ops := ops, turns := turns } })
    (hfault : hostStep op u = .fault f) :
    ∃ t, step s = .next t ∧ t = { u with faultMark := some f } ∧ (ops.head? ≠ some .reset → step t = .fault f) := by
  obtain ⟨hmover, htaken⟩ := mover_host hops (.inr ⟨hb, hturns⟩) hu
  refine ⟨_, ?_, rfl, fun hreset => step_of_mark rfl ?_⟩
  · rw [step_of_mover_host hmark hmover, htaken, hfault, settle_fault]
  · simpa [State.resetNext, hu] using hreset

end Sys2Proof.Machine

open Sys2Proof Sys2Proof.Machine

/-- Settles O6, by the ways a command can complete: an error report, or results that leave the error bits alone. -/
theorem errorReportIsPrecise : Obligations.ErrorReportIsPrecise := by
  intro i s t h
  cases exec_completion h with
  | error _ c => exact .inl ⟨c, rfl⟩
  | _ => exact .inr ⟨rfl, rfl, rfl, rfl, rfl⟩

/-- Settles O4: `cur_op` is the decoded word, and a dropped word is not decoded. -/
theorem commandWriteIssuesOrOverruns : Obligations.CommandWriteIssuesOrOverruns := by
  refine fun s w => ⟨fun hb => ⟨CurOp.ofWord w, writeReg_cmd_idle w hb, fun i hrsv hop => ?_, curOp_ofWord_illegal⟩,
    writeReg_cmd_busy w⟩
  exact curOp_ofWord (decodeWord_of_opField hrsv hop)

/-- Settles O51: either write is a fault of the state with the operation and its turn taken. -/
theorem busyMemoryWriteSetsTheFaultMark : Obligations.BusyMemoryWriteSetsTheFaultMark :=
  fun _ _ _ v _ _ hb hmark hturns =>
    ⟨fun hops hlegal => step_marks_hostFault hb hmark hturns hops rfl (hostStep_write_in_busy v hb hlegal),
      fun hops hlegal => step_marks_hostFault hb hmark hturns hops rfl (hostStep_write_out_busy v hb hlegal)⟩

end

section
/-! PROOF. Reset and the reads of a busy block: ConvertAfterResetReportsZeroDim,
BusyReadsReturnAnyValueWhereResultsStand, ResetState, ResetAbandonsTheCommand, ResetMeetsTheInvariant. -/

namespace Sys2Proof.Machine

/-! ### The state after reset -/

theorem laneBytes_pos (fmt : SampleFmt) : 0 < laneBytes fmt := by cases fmt <;> decide

/-- After reset no lane of IN is written (R169). -/
theorem readLane_resetOf (p : Instance) (o : Outside) (i : Nat) (k : Fin 4) :
    (State.resetOf p o).readLane i k = none := by
  have hbytes : (State.resetOf p o).inMem.readBytes (laneAddr p.sampleFmt i k) (laneBytes p.sampleFmt) = none :=
    Memory.readBytes_eq_none (Nat.le_refl _) (Nat.lt_add_of_pos_right (laneBytes_pos _)) rfl
  exact congrArg (Option.map _) hbytes

/-- After reset STATUS reads 0 (R169). -/
theorem regValue_status_resetOf (p : Instance) (o : Outside) : (State.resetOf p o).regValue .status = 0 := by
  simp [State.regValue, Status.word_eq, State.resetOf]

/-- After reset CFG reads 0 (R169). -/
theorem regValue_cfg_resetOf (p : Instance) (o : Outside) : (State.resetOf p o).regValue .cfg = 0 := by
  simp [State.regValue, Cfg.word_eq, State.resetOf]

/-- After reset OUT_SIZE reads 0 (R28, R169). -/
theorem regValue_outSize_resetOf (p : Instance) (o : Outside) : (State.resetOf p o).regValue .outSize = 0 := by
  obtain ⟨_, _, _, _, hreset⟩ := sizeRegistersReadTheGeometry (State.resetOf p o) 0 0
  rw [State.regValue, ← readReg_outSize _ 0]
  exact hreset p o

/-- After reset ROW_STRIDE reads 0: a row of no pixels has no padding (R29, R169). -/
theorem regValue_rowStride_resetOf (p : Instance) (o : Outside) : (State.resetOf p o).regValue .rowStride = 0 := by
  have hstride : DataFormat.r32f.stride 0 = 0 := by decide
  apply BitVec.eq_of_toNat_eq
  exact (rowStride_toNat (f := .r32f) rfl).trans hstride

theorem lane_zero (k : Fin 4) : Sample.zero.lane k = 0 := by fin_cases k <;> rfl

/-! ### Reset as a step -/

/-- Reset at the host's turn of a block with no mark leads to the state after reset, whatever the block does (R168). -/
theorem step_reset {s : State} {ops : List HostOp} {turns : List Agent} (hops : s.outside.ops = .reset :: ops)
    (hmark : s.faultMark = none)
    (hturn : (s.status.busy = false ∧ s.outside.turns = turns) ∨
      (s.status.busy = true ∧ s.outside.turns = .host :: turns)) :
    step s = .next (State.resetOf s.inst { s.outside with ops := ops, turns := turns }) := by
  obtain ⟨hmover, htaken⟩ := mover_host hops hturn rfl
  rw [step_of_mover_host hmark hmover, htaken]
  rfl

/-! ### Reads while BUSY = 1 -/

/-- QLEN's place in STATUS is bits 20:16 (R19). -/
theorem getLsbD_qlenField (q : BitVec 5) {k : Nat} (h : k < 16 ∨ 21 ≤ k) :
    (BitVec.ofNat 64 (q.toNat * 2 ^ 16)).getLsbD k = false := by
  rw [BitVec.getLsbD_ofNat, Nat.testBit_mul_two_pow]
  rcases h with h | h
  · simp [show ¬16 ≤ k by omega]
  · simp [BitVec.testBit_toNat, BitVec.getLsbD_of_ge q (k - 16) (by omega)]

/-- QLEN decides no bit of STATUS outside its place. -/
theorem Status.word_getLsbD_congr_qlen (t : Status) (q : BitVec 5) {k : Nat} (h : k < 16 ∨ 21 ≤ k) :
    ({ t with qlen := q } : Status).word.getLsbD k = t.word.getLsbD k := by
  simp only [Status.word, BitVec.getLsbD_or, getLsbD_qlenField _ h]

end Sys2Proof.Machine

open Sys2Proof Sys2Proof.Machine

/-- Settles O10: the shared checks pass up to the dimensions, which are 0. -/
theorem convertAfterResetReportsZeroDim : Obligations.ConvertAfterResetReportsZeroDim := by
  intro p o
  have hdims : (State.resetOf p o).checkDims = .error (.raise .zeroDim) := checkDims_zeroDim (.inl rfl)
  exact ⟨rfl, rfl, rfl, rfl,
    exec_of_job_raise (.inl rfl) (job_eq_error.2 (.inr ⟨.r32f, rfl, .inr ⟨.nonColor, rfl, .inl hdims⟩⟩))⟩

/-- Settles O46: results read as the free value, the other registers as their own; in STATUS only QLEN is a result. -/
theorem busyReadsReturnAnyValueWhereResultsStand : Obligations.BusyReadsReturnAnyValueWhereResultsStand := by
  intro s free hb
  have hstatus : s.readReg free .status =
      ({ s with status := { s.status with qlen := field free 0 5 } } : State).regValue .status := if_pos hb
  obtain ⟨⟨_, _, _, _, _, _, _, hqlen, _⟩, _⟩ := statusLayoutAndWriteOneToClear _ 0 _ hstatus
  refine ⟨fun _ => if_pos hb, if_pos hb, if_pos hb, fun hc => (if_pos hb).trans (if_pos hc),
    ⟨hqlen, fun k hk => ?_⟩, ?_, fun a n bs hbs => ?_⟩
  · rw [hstatus]
    exact Status.word_getLsbD_congr_qlen s.status _ hk
  · rintro r (rfl | rfl | rfl | rfl | rfl | rfl | rfl | ⟨k, rfl⟩) <;> exact ite_self _
  · simp [State.hostReadOut, hbs, hb]

/-- Settles O53: every register holds 0 but VERSION, and no byte of a memory is written. -/
theorem resetState : Obligations.ResetState := by
  rintro p o s rfl
  exact ⟨regValue_status_resetOf p o, regValue_cfg_resetOf p o, rfl, rfl, rfl, regValue_outSize_resetOf p o,
    regValue_rowStride_resetOf p o, fun k => ⟨lane_zero k, lane_zero k⟩, rfl, rfl, ite_self _, rfl, rfl,
    readLane_resetOf p o, fun _ => rfl, rfl⟩

/-- Settles O54: reset is the host's operation at its turn, and the one step that leads on from a marked block. -/
theorem resetAbandonsTheCommand : Obligations.ResetAbandonsTheCommand := by
  intro s ops hops
  refine ⟨fun turns hmark hb hturns => step_reset hops hmark (.inr ⟨hb, hturns⟩),
    fun hmark hb => step_reset hops hmark (.inl ⟨hb, rfl⟩), fun hmark => ?_⟩
  obtain ⟨f, hf⟩ := Option.ne_none_iff_exists'.1 hmark
  rw [step_of_mark_reset hf (resetNext_iff.2 ⟨ops, hops⟩)]
  simp [hops]

/-- Settles O60: the invariant of the state after reset of any legal instance, and the default instance is one. -/
theorem resetMeetsTheInvariant : Obligations.ResetMeetsTheInvariant :=
  ⟨fun _ o hlegal => State.resetOf_inv o hlegal, State.resetOf_inv _ (by decide)⟩

end
